-- ==== Sys2Proof/Word.lean ====
section
/-! DEFINITION. The widths of the block's quantities (00_scope.md R5, R6). All of them are unsigned. -/

namespace Sys2Proof

/-- A command word, or the value of a 32-bit register of the host window (R60, R25). -/
abbrev Word := BitVec 32

/-- One byte: a buffer byte, a byte on the bus, a register address (`REG_BITS`), a length (`LEN_BITS`). -/
abbrev Byte := BitVec 8

/-- A slave address, `SLA_BITS` wide. -/
abbrev SlaveAddr := BitVec 7

/-- The clock-rate divisor, `DIV_BITS` wide. -/
abbrev Divisor := BitVec 16

/-- A byte offset into the host window of 20_memory.md R41, `0x000` to `0x1FF`. -/
abbrev Offset := BitVec 9

end Sys2Proof
end

