-- ==== Sys2Proof/Config.lean ====
section
/-! DEFINITION. What an implementation fixes: the parameters of 00_scope.md R5, each a field. -/

namespace Sys2Proof

/-- The parameters of R5. A machine carries them in its state, where no step writes them (log 6). -/
structure Config where
  /-- `MAX_RESTARTS`: the value loaded into the retry counter (R17); the one open parameter (D23). -/
  maxRestarts : Byte
  /-- `SLA_BITS`: the width of a slave address. -/
  slaBits : Nat
  /-- `REG_BITS`: the width of the register address. -/
  regBits : Nat
  /-- `LEN_BITS`: the width of the byte count. -/
  lenBits : Nat
  /-- `BUF_BYTES`: the size of the transaction buffer. -/
  bufBytes : Nat
  /-- `DIV_BITS`: the width of the stored divisor. -/
  divBits : Nat
  /-- `ST_OK`. -/
  stOk : BitVec 4
  /-- `ST_START_FAILED`. -/
  stStartFailed : BitVec 4
  /-- `ST_ADDR_FAILED`. -/
  stAddrFailed : BitVec 4
  /-- `ST_REGADDR_REJECTED`. -/
  stRegAddrRejected : BitVec 4
  /-- `ST_DATA_REJECTED`. -/
  stDataRejected : BitVec 4
  /-- `ST_READ_ADDR`: must differ from the five before it. -/
  stReadAddr : BitVec 4
  /-- `ST_HW_FAULT`: must differ from the six before it. -/
  stHwFault : BitVec 4
  /-- `WAIT_BOUND`: none, the waits are unbounded (R46); no rule gives a bound an effect (R178). -/
  waitBound : Option Nat
  deriving DecidableEq, Repr

/-- What R5 allows: `MAX_RESTARTS` from 1 to 255 (D23), every other parameter at the value R5 gives this hardware. -/
def Config.legal (c : Config) : Bool :=
  c.maxRestarts != 0 && c.slaBits == 7 && c.regBits == 8 && c.lenBits == 8 && c.bufBytes == 256 && c.divBits == 16 &&
    c.stOk == 0 && c.stStartFailed == 1 && c.stAddrFailed == 2 && c.stRegAddrRejected == 3 && c.stDataRejected == 4 &&
    c.stReadAddr == 5 && c.stHwFault == 6 && c.waitBound == none

/-- What this hardware takes: the value column of R5. -/
abbrev Config.hardware : Config where
  maxRestarts := 20
  slaBits := 7
  regBits := 8
  lenBits := 8
  bufBytes := 256
  divBits := 16
  stOk := 0
  stStartFailed := 1
  stAddrFailed := 2
  stRegAddrRejected := 3
  stDataRejected := 4
  stReadAddr := 5
  stHwFault := 6
  waitBound := none

end Sys2Proof
end

