-- ==== Sys2Proof/Syntax.lean ====
section
/-! DEFINITION. The eight commands (00_scope.md R2), one constructor per row of the opcode table (30_encoding.md R62),
with the operands of R66 in the document's order. -/

namespace Sys2Proof

/-- A command with its operands. -/
inductive Instr where
  /-- `INIT div` (R160). -/
  | init (div : Divisor)
  /-- `START` (R81). -/
  | start
  /-- `STOP` (R84). -/
  | stop
  /-- `PUT byte` (R101). -/
  | put (byte : Byte)
  /-- `GETN` (R105). -/
  | getn
  /-- `GETA` (R104). -/
  | geta
  /-- `WRITE sla, len, reg` (R122). -/
  | write (sla : SlaveAddr) (len reg : Byte)
  /-- `READ sla, len, reg` (R123). -/
  | read (sla : SlaveAddr) (len reg : Byte)
  deriving DecidableEq, Repr

end Sys2Proof
end

