-- ==== Sys2Proof/WellFormed.lean ====
section
/-! DEFINITION. The check an instruction must pass before it is encoded. The operands of `Instr` are typed by their
widths, so every `Instr` is well formed (R63: "Every value of `sla`, `reg`, `byte`, `len`, `div` is legal"); the check
stands where a value can be out of range, at the assembler's operands, which are unsigned numbers (30_encoding.md R66). -/

namespace Sys2Proof

/-- A line of assembly text, its operands still numbers (R66). -/
inductive Asm where
  | init (div : Nat)
  | start
  | stop
  | put (byte : Nat)
  | geta
  | getn
  | write (sla len reg : Nat)
  | read (sla len reg : Nat)
  deriving DecidableEq, Repr

/-- Whether a slave address, a length and a register address have the widths R5 gives them. -/
def transactionOperandsFit (sla len reg : Nat) : Bool :=
  decide (sla < 2 ^ Config.hardware.slaBits) && decide (len < 2 ^ Config.hardware.lenBits) &&
    decide (reg < 2 ^ Config.hardware.regBits)

/-- The operand ranges of R66: 0 to 65535 for a divisor, 0 to 255 for a byte, a length and a register address, 0 to 127
for a slave address. -/
def Asm.wellFormed : Asm → Bool
  | .init div => decide (div < 2 ^ Config.hardware.divBits)
  | .put byte => decide (byte ≤ 255)
  | .write sla len reg => transactionOperandsFit sla len reg
  | .read sla len reg => transactionOperandsFit sla len reg
  | .start => true
  | .stop => true
  | .geta => true
  | .getn => true

/-- The command an assembly line stands for; none where an operand is out of range. -/
def Asm.assemble (a : Asm) : Option Instr :=
  if a.wellFormed then
    some (match a with
      | .init div => .init (BitVec.ofNat 16 div)
      | .start => .start
      | .stop => .stop
      | .put byte => .put (BitVec.ofNat 8 byte)
      | .geta => .geta
      | .getn => .getn
      | .write sla len reg => .write (BitVec.ofNat 7 sla) (BitVec.ofNat 8 len) (BitVec.ofNat 8 reg)
      | .read sla len reg => .read (BitVec.ofNat 7 sla) (BitVec.ofNat 8 len) (BitVec.ofNat 8 reg))
  else none

/-- The assembly line of a command. -/
def Instr.toAsm : Instr → Asm
  | .init div => .init div.toNat
  | .start => .start
  | .stop => .stop
  | .put byte => .put byte.toNat
  | .geta => .geta
  | .getn => .getn
  | .write sla len reg => .write sla.toNat len.toNat reg.toNat
  | .read sla len reg => .read sla.toNat len.toNat reg.toNat

end Sys2Proof
end

