-- ==== Sys2Proof/Decode.lean ====
section
/-! DEFINITION. Decoding and encoding of the one 32-bit command word (30_encoding.md R60 to R65). -/

namespace Sys2Proof

/-- Why a word is no command (R64). -/
inductive DecodeReject where
  /-- Opcode 0x0, 0x5 or 0xA to 0xF, with any other bits. -/
  | reservedOpcode
  /-- One of the eight opcodes with a 1 in a bit its format marks "0". -/
  | mustBeZero
  deriving DecidableEq, Repr

/-- A row of the opcode map: a word is the command when `word &&& mask = value` (R62). -/
structure OpcodeRow where
  value : Word
  mask : Word
  deriving DecidableEq, Repr

/-- Whether a word is the command of a row (R62). -/
def OpcodeRow.matchesWord (r : OpcodeRow) (w : Word) : Bool := w &&& r.mask == r.value

def rowInit : OpcodeRow := { value := 0x00000001, mask := 0xF0000FFF }
def rowStart : OpcodeRow := { value := 0x00000002, mask := 0xFFFFFFFF }
def rowStop : OpcodeRow := { value := 0x00000003, mask := 0xFFFFFFFF }
def rowPut : OpcodeRow := { value := 0x00000004, mask := 0xFFF00FFF }
def rowGetn : OpcodeRow := { value := 0x00000006, mask := 0xFFFFFFFF }
def rowGeta : OpcodeRow := { value := 0x00000007, mask := 0xFFFFFFFF }
def rowWrite : OpcodeRow := { value := 0x00000008, mask := 0xF000080F }
def rowRead : OpcodeRow := { value := 0x00000009, mask := 0xF000080F }

/-- The opcode map of R62. -/
def opcodeMap : List OpcodeRow :=
  [rowInit, rowStart, rowStop, rowPut, rowGetn, rowGeta, rowWrite, rowRead]

/-- `W[3:0]`, the opcode (R60). -/
def fieldOp (w : Word) : BitVec 4 := w.extractLsb' 0 4
/-- `W[10:4]`, the slave address of format T (R61). -/
def fieldSla (w : Word) : SlaveAddr := w.extractLsb' 4 7
/-- `W[19:12]`, the register address of format T and the byte of format B (R61). -/
def fieldReg (w : Word) : Byte := w.extractLsb' 12 8
/-- `W[27:20]`, the length of format T (R61). -/
def fieldLen (w : Word) : Byte := w.extractLsb' 20 8
/-- `W[27:12]`, the divisor of format C (R61). -/
def fieldDiv (w : Word) : Divisor := w.extractLsb' 12 16

/-- The name of a word that matches no row (R64). -/
def rejectReason (w : Word) : DecodeReject :=
  if fieldOp w = 0x0 ∨ fieldOp w = 0x5 ∨ 0xA ≤ fieldOp w then .reservedOpcode else .mustBeZero

/-- The command a word encodes (R62), its operands copied as they stand (R63), or the name of its rejection (R64). -/
def decode (w : Word) : Except DecodeReject Instr :=
  if rowInit.matchesWord w then .ok (.init (fieldDiv w))
  else if rowStart.matchesWord w then .ok .start
  else if rowStop.matchesWord w then .ok .stop
  else if rowPut.matchesWord w then .ok (.put (fieldReg w))
  else if rowGetn.matchesWord w then .ok .getn
  else if rowGeta.matchesWord w then .ok .geta
  else if rowWrite.matchesWord w then .ok (.write (fieldSla w) (fieldLen w) (fieldReg w))
  else if rowRead.matchesWord w then .ok (.read (fieldSla w) (fieldLen w) (fieldReg w))
  else .error (rejectReason w)

/-- The opcode of a command (R62). -/
def Instr.opcode : Instr → BitVec 4
  | .init _ => 0x1
  | .start => 0x2
  | .stop => 0x3
  | .put _ => 0x4
  | .getn => 0x6
  | .geta => 0x7
  | .write _ _ _ => 0x8
  | .read _ _ _ => 0x9

/-- Format N (R61): `0[31:4]`, `op`. -/
def encodeN (op : BitVec 4) : Word := (0 : BitVec 28) ++ op
/-- Format B (R61): `0[31:20]`, `byte`, `0[11:4]`, `op`. -/
def encodeB (byte : Byte) (op : BitVec 4) : Word := (0 : BitVec 12) ++ byte ++ (0 : BitVec 8) ++ op
/-- Format T (R61): `0[31:28]`, `len`, `reg`, `0[11]`, `sla`, `op`. -/
def encodeT (len reg : Byte) (sla : SlaveAddr) (op : BitVec 4) : Word :=
  (0 : BitVec 4) ++ len ++ reg ++ (0 : BitVec 1) ++ sla ++ op
/-- Format C (R61): `0[31:28]`, `div`, `0[11:4]`, `op`. -/
def encodeC (div : Divisor) (op : BitVec 4) : Word := (0 : BitVec 4) ++ div ++ (0 : BitVec 8) ++ op

/-- The word of a command (R61, R62). -/
def encode (i : Instr) : Word :=
  match i with
  | .init div => encodeC div i.opcode
  | .start => encodeN i.opcode
  | .stop => encodeN i.opcode
  | .put byte => encodeB byte i.opcode
  | .getn => encodeN i.opcode
  | .geta => encodeN i.opcode
  | .write sla len reg => encodeT len reg sla i.opcode
  | .read sla len reg => encodeT len reg sla i.opcode

/-- The opcode-table row of a command (R62). -/
def Instr.row : Instr → OpcodeRow
  | .init _ => rowInit
  | .start => rowStart
  | .stop => rowStop
  | .put _ => rowPut
  | .getn => rowGetn
  | .geta => rowGeta
  | .write _ _ _ => rowWrite
  | .read _ _ _ => rowRead

/-- The word whose `nbits` low bits are `w` and whose other bits are 0; none where that is more than one word. A command
is one word (R60), so an opcode-table row's bits are the word's own, bit 0 the least significant (R6). -/
def tableWord (nbits w : Nat) : Option Word :=
  if w % 2 ^ nbits < 2 ^ 32 then some (BitVec.ofNat 32 (w % 2 ^ nbits)) else none

/-- The command this decoder reads from an instruction of `nbits` bits `w`. -/
def decodeTableWord (nbits w : Nat) : Option Instr :=
  match tableWord nbits w with
  | none => none
  | some word =>
    match decode word with
    | .ok i => some i
    | .error _ => none

end Sys2Proof
end

