-- ==== Sys2Proof/Machine/State.lean ====
section
/-! DEFINITION. The state of the block (10_state.md R10) as plain data, the outside world that acts on it, and reset. -/

namespace Sys2Proof.Machine

/-- The values of `PH` (R14). The values 11 to 15 are "never held" and cannot be written down (log 14). -/
inductive Phase where
  | idle | enter | start1 | addrW | regAddr | start2 | addrR | dataTx | dataRx | stopping | prim
  deriving DecidableEq, Repr

/-- `HwStatus`, the hardware status of a completed bus operation (R22). -/
inductive HwStatus where
  | start | rstart | txAck | txNack | arbLost | busError | other
  deriving DecidableEq, Repr

/-- The five classes of a sent byte's answer (R20, R101). -/
inductive AckClass where
  | ack | nack | arbitrationLost | busError | unknown
  deriving DecidableEq, Repr

/-- The result codes of a composite (R170). -/
inductive ResultCode where
  | ok | startFailed | addrFailed | regAddrRejected | dataRejected | readAddr | hwFault
  deriving DecidableEq, Repr

/-- `LE_OP`, the bus operation in flight, with the byte an `OpTx` sends and the answer an `OpRx` gives (R21, R46). The
model takes both from here, and waits while this is not `none` (log 14). -/
inductive LineOp where
  | none
  | start
  | stop
  | tx (b : Byte)
  | rx (ack : Bool)
  deriving DecidableEq, Repr

/-- Whether a Start was issued with the bus free or held (R27). -/
inductive StartKind where
  | fresh | repeated
  deriving DecidableEq, Repr

/-- A bus event of the trace (R27). In `rx`, `ack` is true for `AckSent`. -/
inductive Event where
  | start (kind : StartKind) (hs : HwStatus)
  | stop
  | tx (b : Byte) (hs : HwStatus)
  | rx (b : Byte) (ack : Bool)
  deriving DecidableEq, Repr

/-- What the environment answers when it completes an operation (R46). The status answers a Start or a sent byte, the
byte a receive; where R46 gives an operation no such answer, the part left over is the value of a latch that the spec
leaves at "any value" (U8, U9; log 7). -/
structure Answer where
  status : HwStatus
  byte : Byte
  deriving DecidableEq, Repr

/-- The width of a host access (R45): 8, 16 or 32 bits. R45 speaks of "an access of another width" and lists none; that
there are these three and no other is the model's choice (log 20). -/
inductive Width where
  | byte | half | word
  deriving DecidableEq, Repr

/-- A host access to the window of R41. A byte write moves the low byte of `value` (log 19). -/
inductive HostAccess where
  | read (width : Width) (offset : Offset)
  | write (width : Width) (offset : Offset) (value : Word)
  deriving DecidableEq, Repr

/-- The buffer: the bytes that differ from what an unlisted byte reads as, by rising index. -/
abbrev Memory := List Host.Cell

/-- The values that the elements R190 calls "unspecified" happen to take when reset strikes (U7; log 2). `bufBytes` are
the buffer's bytes from index 0; a byte beyond its end takes what an unlisted byte reads as. -/
structure ResetDraw where
  div : Divisor
  idx : Byte
  rcp : BitVec 4
  retry : Byte
  dOp : BitVec 4
  dDir : Bool
  dSla : SlaveAddr
  dReg : Byte
  dLen : Byte
  dByte : Byte
  rc : BitVec 4
  sr : Bool
  ac : BitVec 3
  data : Byte
  done : Bool
  hwstat : HwStatus
  shift : Byte
  ackPol : Bool
  bufBytes : List Byte
  deriving DecidableEq, Repr

/-- What happens next at the block, from outside or by the controller's turn (R8, R191; log 4). -/
inductive Stimulus where
  /-- The host makes an access. -/
  | host (a : HostAccess)
  /-- The controller takes one step of its own, where it has one. -/
  | tick
  /-- The environment completes the operation in flight, where there is one. -/
  | bus (ans : Answer)
  /-- The reset input is struck. -/
  | reset (draw : ResetDraw)
  deriving DecidableEq, Repr

/-- Why the machine stops with a fault (R182). Both are safe: no claim holds of a faulted run. -/
inductive Fault where
  /-- A 32-bit write to `CMD` while `BUSY = 1` (R69, R52). Raised by the host port and by every command. Safe. -/
  | reentry
  /-- A byte access to the buffer window while `BUSY = 1` (R42, R52). Raised by the host port. Safe. -/
  | bufferRace
  deriving DecidableEq, Repr

/-- Why the machine gives a host action no meaning (R182). All are safe: the run ends with nothing claimed. -/
inductive Refusal where
  /-- An instruction this model has no meaning for; no arm of `exec` raises it. Safe. -/
  | notModelled (mnemonic : String)
  /-- The word is no command (R64). Raised by the host port. Safe. -/
  | reservedEncoding
  /-- A command other than INIT while `EN = 0` (R161). Raised by every command but INIT. Safe. -/
  | notInitialised
  /-- INIT while `EN = 1` (R161). Raised by INIT. Safe. -/
  | alreadyInitialised
  /-- An access of a width or at an offset that R45 does not allow. Raised by the host port. Safe. -/
  | badAccess
  /-- An access to the hole of the window (R41). Raised by the host port. Safe. -/
  | noSuchRegister
  /-- A 32-bit write to `STAT`, `RES` or `CFG` (R41). Raised by the host port. Safe. -/
  | writeToReadOnly
  deriving DecidableEq, Repr

/-- The state: every element of R10, then the trace of R27, then the model's own fields (INVENTORY.md, State). -/
structure State where
  /-- `EN` (R11). -/
  en : Bool
  /-- `DIV` (R12). -/
  div : Divisor
  /-- `BUSY` (R13). -/
  busy : Bool
  /-- `PH` (R14). -/
  ph : Phase
  /-- `IDX` (R15). -/
  idx : Byte
  /-- `RCP` (R16). -/
  rcp : BitVec 4
  /-- `RETRY` (R17). -/
  retry : Byte
  /-- `HELD` (R18). -/
  held : Bool
  /-- `D_OP` (R19). -/
  dOp : BitVec 4
  /-- `D_DIR` (R19): true for READ. -/
  dDir : Bool
  /-- `D_SLA` (R19). -/
  dSla : SlaveAddr
  /-- `D_REG` (R19). -/
  dReg : Byte
  /-- `D_LEN` (R19). -/
  dLen : Byte
  /-- `D_BYTE` (R19). -/
  dByte : Byte
  /-- `RC` (R20). -/
  rc : BitVec 4
  /-- `SR` (R20): true for `Err`. -/
  sr : Bool
  /-- `AC` (R20). -/
  ac : BitVec 3
  /-- `DATA` (R20). -/
  data : Byte
  /-- `LE_OP` (R21). -/
  leOp : LineOp
  /-- `DONE` (R21). -/
  done : Bool
  /-- `HWSTAT` (R21, R22). -/
  hwstat : HwStatus
  /-- `SHIFT` (R21). -/
  shift : Byte
  /-- `ACKPOL` (R21): true for ACK. -/
  ackPol : Bool
  /-- `BUF` (R24). -/
  buf : Memory
  /-- The trace of bus events, oldest first (R27). -/
  trace : List Event
  /-- What the host's reads returned, oldest first. The model's own (log 8). -/
  replies : List Word
  /-- The parameters of R5, written by no step. A field of State is the model's choice (log 6). -/
  cfg : Config
  /-- What happens next, soonest first. The model's own (log 4). -/
  world : List Stimulus
  deriving DecidableEq, Repr

/-- The machine right after reset (R190). `EN`, `BUSY`, `PH`, `HELD`, `LE_OP` and the trace are the spec's; every other
value is this model's choice (log 1), since R190 leaves it unspecified. -/
def State.reset : State where
  en := false
  div := 0
  busy := false
  ph := .idle
  idx := 0
  rcp := 0
  retry := 0
  held := false
  dOp := 0
  dDir := false
  dSla := 0
  dReg := 0
  dLen := 0
  dByte := 0
  rc := 0
  sr := false
  ac := 0
  data := 0
  leOp := .none
  done := false
  hwstat := .other
  shift := 0
  ackPol := false
  buf := []
  trace := []
  replies := []
  cfg := Config.hardware
  world := []

end Sys2Proof.Machine
end

