-- ==== Sys2Proof/Machine/Flags.lean ====
section
/-! DEFINITION. The numbers behind the enumerations, the two classifications of a hardware status, and the images of the
three read-only host registers (10_state.md R14, R20, R23, R25, R26; 60_exceptions.md R170, R171). -/

namespace Sys2Proof.Machine

/-- The number of a phase (R14). -/
def Phase.code : Phase → BitVec 4
  | .idle => 0
  | .enter => 1
  | .start1 => 2
  | .addrW => 3
  | .regAddr => 4
  | .start2 => 5
  | .addrR => 6
  | .dataTx => 7
  | .dataRx => 8
  | .stopping => 9
  | .prim => 10

/-- The number `AC` takes for a class (R20). -/
def AckClass.code : AckClass → BitVec 3
  | .ack => 0
  | .nack => 1
  | .arbitrationLost => 2
  | .busError => 3
  | .unknown => 4

/-- The number of a result code: the parameter of R5 (R170). -/
def ResultCode.code (r : ResultCode) (cfg : Config) : BitVec 4 :=
  match r with
  | .ok => cfg.stOk
  | .startFailed => cfg.stStartFailed
  | .addrFailed => cfg.stAddrFailed
  | .regAddrRejected => cfg.stRegAddrRejected
  | .dataRejected => cfg.stDataRejected
  | .readAddr => cfg.stReadAddr
  | .hwFault => cfg.stHwFault

/-- Whether a Start was accepted: exactly for `HS_START` and `HS_RSTART` (R23). -/
def startOk : HwStatus → Bool
  | .start => true
  | .rstart => true
  | .txAck => false
  | .txNack => false
  | .arbLost => false
  | .busError => false
  | .other => false

/-- The class of the answer to a sent byte (R23). -/
def ackClass : HwStatus → AckClass
  | .txAck => .ack
  | .txNack => .nack
  | .arbLost => .arbitrationLost
  | .busError => .busError
  | .start => .unknown
  | .rstart => .unknown
  | .other => .unknown

/-- One bit as a bit vector. -/
def bit (b : Bool) : BitVec 1 := BitVec.ofBool b

/-- The word `STAT` shows (R25). -/
def statImage (s : State) : Word :=
  (0 : BitVec 8) ++ s.idx ++ s.retry ++ s.ph.code ++ (0 : BitVec 1) ++ bit s.held ++ bit s.en ++ bit s.busy

/-- The word `RES` shows (R25). -/
def resImage (s : State) : Word :=
  (0 : BitVec 16) ++ s.data ++ s.ac ++ bit s.sr ++ s.rc

/-- The word `CFG` shows (R25). -/
def cfgImage (s : State) : Word :=
  (0 : BitVec 16) ++ s.div

/-- The states of the document's own machine (R26). -/
inductive DocumentState where
  | idle | startPending | addressFraming | registerAddressSent | dataPhase | stopped | aborted
  deriving DecidableEq, Repr

/-- The document's state for the block's (R26). `PRIM` has none. `RegisterAddressSent` of a write is the instant between
two phases, so no phase shows it. -/
def documentState (s : State) : Option DocumentState :=
  match s.ph with
  | .idle => some .idle
  | .enter => some .startPending
  | .start1 => some .startPending
  | .addrW => some .addressFraming
  | .regAddr => some .addressFraming
  | .start2 => some .registerAddressSent
  | .addrR => some .registerAddressSent
  | .dataTx => some .dataPhase
  | .dataRx => some .dataPhase
  | .stopping => if s.rcp = ResultCode.ok.code s.cfg then some .stopped else some .aborted
  | .prim => none

/-- The classes of the document's taxonomy (R171). -/
inductive FailureClass where
  | transientContention | protocolFault | hardwareFault
  deriving DecidableEq, Repr

/-- The class behind a result code (R170, R171); success has none. -/
def ResultCode.failureClass : ResultCode → Option FailureClass
  | .ok => none
  | .startFailed => some .transientContention
  | .addrFailed => some .transientContention
  | .regAddrRejected => some .protocolFault
  | .dataRejected => some .protocolFault
  | .readAddr => some .protocolFault
  | .hwFault => some .hardwareFault

end Sys2Proof.Machine
end

