-- ==== Sys2Proof/Machine/Operands.lean ====
section
/-! DEFINITION. The operands: the latched descriptor of a command (10_state.md R19, 30_encoding.md R63, R69) and the
address byte (42_transaction_engine.md R121). -/

namespace Sys2Proof.Machine

/-- The six fields latched together when a command is accepted (R19). -/
structure Descriptor where
  op : BitVec 4
  dir : Bool
  sla : SlaveAddr
  reg : Byte
  len : Byte
  byte : Byte
  deriving DecidableEq, Repr

/-- What a command latches: its opcode, bit 0 of the opcode as the direction, and its operands; a field it does not
carry is 0 (R19, R69). -/
def descriptorOf (i : Instr) : Descriptor :=
  match i with
  | .init _ => { op := i.opcode, dir := i.opcode.getLsbD 0, sla := 0, reg := 0, len := 0, byte := 0 }
  | .start => { op := i.opcode, dir := i.opcode.getLsbD 0, sla := 0, reg := 0, len := 0, byte := 0 }
  | .stop => { op := i.opcode, dir := i.opcode.getLsbD 0, sla := 0, reg := 0, len := 0, byte := 0 }
  | .put b => { op := i.opcode, dir := i.opcode.getLsbD 0, sla := 0, reg := 0, len := 0, byte := b }
  | .getn => { op := i.opcode, dir := i.opcode.getLsbD 0, sla := 0, reg := 0, len := 0, byte := 0 }
  | .geta => { op := i.opcode, dir := i.opcode.getLsbD 0, sla := 0, reg := 0, len := 0, byte := 0 }
  | .write sla len reg =>
    { op := i.opcode, dir := i.opcode.getLsbD 0, sla := sla, reg := reg, len := len, byte := 0 }
  | .read sla len reg =>
    { op := i.opcode, dir := i.opcode.getLsbD 0, sla := sla, reg := reg, len := len, byte := 0 }

/-- The address byte: the 7-bit address above the direction bit, which is true for a read (R121). -/
def addrByte (sla : SlaveAddr) (rw : Bool) : Byte := sla ++ bit rw

end Sys2Proof.Machine
end

