-- ==== Sys2Proof/Machine/Ops.lean ====
section
/-! DEFINITION. The shared operations over the buffer and the registers: buffer access, the issue and the completion of a
bus operation, the trace, the latches, the abort path and the return. -/

namespace Sys2Proof.Machine

/-! ## The buffer (10_state.md R24, 20_memory.md R42, R43) -/

/-- What a buffer byte that is not listed reads as. The spec leaves the bytes after reset unspecified (R190); 0 is this
model's choice (log 3). -/
def unlistedByte : Byte := 0

/-- `BUF[i]`. -/
def Memory.read : Memory → Nat → Byte
  | [], _ => unlistedByte
  | (k, v) :: m, i => if k = i then v else Memory.read m i

/-- `BUF[i] <- v`, keeping the canonical form. -/
def Memory.write : Memory → Nat → Byte → Memory
  | [], i, v => if v = unlistedByte then [] else [(i, v)]
  | (k, x) :: m, i, v =>
    if i < k then (if v = unlistedByte then (k, x) :: m else (i, v) :: (k, x) :: m)
    else if i = k then (if v = unlistedByte then m else (i, v) :: m)
    else (k, x) :: Memory.write m i v

/-- The canonical form from index `lo` on: indices rising, inside the buffer, no byte equal to an unlisted one. -/
def Memory.wfFrom : Nat → Memory → Bool
  | _, [] => true
  | lo, (k, v) :: m =>
    decide (lo ≤ k) && decide (k < Config.hardware.bufBytes) && v != unlistedByte && Memory.wfFrom (k + 1) m

/-- The canonical form of a buffer. -/
def Memory.wf (m : Memory) : Bool := Memory.wfFrom 0 m

/-- The buffer whose bytes from index `i` on are `bytes`, as far as it reaches. -/
def Memory.fill : Nat → List Byte → Memory → Memory
  | _, [], m => m
  | i, b :: bs, m => if i < Config.hardware.bufBytes then Memory.fill (i + 1) bs (Memory.write m i b) else m

/-! ## The trace and the host's replies -/

/-- `emit e` (00_scope.md R7, 10_state.md R27). -/
def State.emit (e : Event) (s : State) : State := { s with trace := s.trace ++ [e] }

/-- A host read returns `v`. -/
def State.reply (v : Word) (s : State) : State := { s with replies := s.replies ++ [v] }

/-! ## The line engine (10_state.md R21, 20_memory.md R46) -/

/-- The issue half of `await(op)`: `LE_OP <- op`, `DONE <- 0`. -/
def State.issue (op : LineOp) (s : State) : State := { s with leOp := op, done := false }

/-- The completion half of `await(op)`: `HWSTAT`, `DONE <- 1`, `LE_OP <- None`. After a Stop or a receive `HWSTAT` is any
value (U8); it is the answer's status, whatever that is (log 7). -/
def State.complete (ans : Answer) (s : State) : State :=
  { s with hwstat := ans.status, done := true, leOp := .none }

/-- `SHIFT` at a completion: the byte received, or, after a sent byte, any value (R102, U9; log 7). -/
def State.loadShift (ans : Answer) (s : State) : State := { s with shift := ans.byte }

/-! ## Acceptance, abort and return -/

/-- The six latches are written together (R19). -/
def State.latch (d : Descriptor) (s : State) : State :=
  { s with dOp := d.op, dDir := d.dir, dSla := d.sla, dReg := d.reg, dLen := d.len, dByte := d.byte }

/-- A composite has decided its result: `RCP <- c`, `PH <- STOPPING` (R16, R175). For a code other than 0 this is the
entry of the abort path, the block's one exception mechanism; nothing else is saved or changed. -/
def State.decideResult (c : ResultCode) (s : State) : State := { s with rcp := c.code s.cfg, ph := .stopping }

/-- `return c` of a composite: `RC <- c`, `PH <- IDLE`, `BUSY <- 0` in one step (R16, R176). -/
def State.returnCode (c : BitVec 4) (s : State) : State := { s with rc := c, ph := .idle, busy := false }

/-- The return of a primitive: `PH <- IDLE`, `BUSY <- 0`; `RC` is not written (R16, R87). -/
def State.returnPrimitive (s : State) : State := { s with ph := .idle, busy := false }

/-! ## Reset (70_reset_and_hazards.md R190, R191, R192) -/

/-- Reset strikes, in any state: the decided elements take R190's values, the unspecified ones whatever `draw` says, the
trace starts anew. A command that was running is abandoned where it stood: no Stop, no code (R192). -/
def State.strikeReset (draw : ResetDraw) (s : State) : State where
  en := false
  div := draw.div
  busy := false
  ph := .idle
  idx := draw.idx
  rcp := draw.rcp
  retry := draw.retry
  held := false
  dOp := draw.dOp
  dDir := draw.dDir
  dSla := draw.dSla
  dReg := draw.dReg
  dLen := draw.dLen
  dByte := draw.dByte
  rc := draw.rc
  sr := draw.sr
  ac := draw.ac
  data := draw.data
  leOp := .none
  done := draw.done
  hwstat := draw.hwstat
  shift := draw.shift
  ackPol := draw.ackPol
  buf := Memory.fill 0 draw.bufBytes []
  trace := []
  replies := s.replies
  cfg := s.cfg
  world := s.world

end Sys2Proof.Machine
end

