-- ==== Sys2Proof/Machine/Primitives.lean ====
section
/-! DEFINITION. The procedures START(), STOP(), PUT(b), GET(a), each in two halves around its one `await`: what it does
before the bus operation is issued and what it does when the environment has completed it. There is one implementation of
each, for the host and for the transaction engine alike (D21). -/

namespace Sys2Proof.Machine

/-- The kind of a START: `Repeated` if `HELD = 1`, else `Fresh` (R81). `HELD` does not change while the START waits. -/
def startKind (s : State) : StartKind := if s.held then .repeated else .fresh

/-- START() up to its `await` (R81). -/
def startIssue (s : State) : State := s.issue .start

/-- START() from the completion on: the event, `SR` and `HELD` (R81, R83). -/
def startDone (ans : Answer) (s : State) : State :=
  let s1 := (s.complete ans).emit (.start (startKind s) ans.status)
  { s1 with sr := !startOk ans.status, held := startOk ans.status }

/-- STOP() up to its `await` (R84). -/
def stopIssue (s : State) : State := s.issue .stop

/-- STOP() from the completion on: `HELD <- 0` and the event (R84). -/
def stopDone (ans : Answer) (s : State) : State :=
  { s.complete ans with held := false }.emit .stop

/-- PUT(b) up to its `await`: the byte is loaded into `SHIFT` (R101). -/
def putIssue (b : Byte) (s : State) : State := { s with shift := b }.issue (.tx b)

/-- PUT(b) from the completion on: the event, `AC`, and `HELD <- 0` on a lost arbitration (R101, R103). -/
def putDone (b : Byte) (ans : Answer) (s : State) : State :=
  let s1 := ((s.complete ans).loadShift ans).emit (.tx b ans.status)
  { s1 with
    ac := (ackClass ans.status).code
    held := if ans.status = .arbLost then false else s.held }

/-- GET(a) up to its `await`: the acknowledgement is chosen before the byte arrives (R106). -/
def getIssue (a : Bool) (s : State) : State := { s with ackPol := a }.issue (.rx a)

/-- GET(a) from the completion on: `DATA <- SHIFT` and the event; no status is inspected (R106). -/
def getDone (a : Bool) (ans : Answer) (s : State) : State :=
  let s1 := (s.complete ans).loadShift ans
  { s1 with data := s1.shift }.emit (.rx ans.byte a)

end Sys2Proof.Machine
end

