-- ==== Sys2Proof/Machine/Sequencer.lean ====
section
/-! DEFINITION. The controller: the transition table of 42_transaction_engine.md R132 and the primitive step of
40_condition_generator.md R87, each row cut at its `await` (10_state.md R21) into the turn that issues the bus operation
and the completion that only the environment enables (20_memory.md R46). -/

namespace Sys2Proof.Machine

/-- `PH = ENTER`: length 0 returns `ST_OK` without touching the bus (R124); else the retry counter is loaded (R132). -/
def enterTurn (s : State) : State :=
  if s.dLen = 0 then s.returnCode (ResultCode.ok.code s.cfg)
  else { s with retry := s.cfg.maxRestarts, ph := .start1 }

/-- Whether the receive about to be issued is not the last, so that it is answered ACK (R130, R132). -/
def moreToCome (s : State) : Bool := decide (s.idx.toNat + 1 < s.dLen.toNat)

/-- `PH = PRIM`: the one primitive the host asked for is issued, by `D_OP` (R87). No reachable state has another `D_OP`
there; in one that has, no rule gives a step (log 13). -/
def primitiveTurn (s : State) : State :=
  if s.dOp = Instr.start.opcode then startIssue s
  else if s.dOp = Instr.stop.opcode then stopIssue s
  else if s.dOp = (Instr.put 0).opcode then putIssue s.dByte s
  else if s.dOp = Instr.geta.opcode then getIssue true s
  else if s.dOp = Instr.getn.opcode then getIssue false s
  else s

/-- What the controller does on its own in each phase (R14, R132): it issues the phase's bus operation, or performs
`ENTER`. -/
def phaseTurn (s : State) : State :=
  match s.ph with
  | .idle => s
  | .enter => enterTurn s
  | .start1 => startIssue s
  | .addrW => putIssue (addrByte s.dSla false) s
  | .regAddr => putIssue s.dReg s
  | .start2 => startIssue s
  | .addrR => putIssue (addrByte s.dSla true) s
  | .dataTx => putIssue (s.buf.read s.idx.toNat) s
  | .dataRx => getIssue (moreToCome s) s
  | .stopping => stopIssue s
  | .prim => primitiveTurn s

/-- One turn of the controller. While a bus operation is in flight it has no step of its own (R46, R182), and outside a
command it has none either (R132: "`PH = IDLE` has no controller step"). -/
def controllerTurn (s : State) : State :=
  if s.busy && decide (s.leOp = .none) then phaseTurn s else s

/-- A failed attempt of the prefix: the counter is decremented first and tested after; at 0 the command gives up with
`c`, else the Start is issued again, with no Stop in between (R125, R132). -/
def retryOrGiveUp (c : ResultCode) (s : State) : State :=
  if s.retry - 1 = 0 then { s with retry := 0 }.decideResult c
  else { s with retry := s.retry - 1, ph := .start1 }

/-- The rows of `START1`, after the START. -/
def afterStart1 (s : State) : State :=
  if s.sr = false then { s with ph := .addrW } else retryOrGiveUp .startFailed s

/-- The rows of `ADDR_W`, after the PUT of SLA+W. -/
def afterAddrW (s : State) : State :=
  if s.ac = AckClass.ack.code then { s with ph := .regAddr }
  else if s.ac = AckClass.nack.code then retryOrGiveUp .addrFailed s
  else s.decideResult .hwFault

/-- The rows of `REGADDR`, after the PUT of the register address. -/
def afterRegAddr (s : State) : State :=
  if s.ac = AckClass.ack.code then
    if s.dDir then { s with ph := .start2 } else { s with idx := 0, ph := .dataTx }
  else if s.ac = AckClass.nack.code then s.decideResult .regAddrRejected
  else s.decideResult .hwFault

/-- The rows of `START2`, after the Repeated Start of a READ: no retry here (R129, R138). -/
def afterStart2 (s : State) : State :=
  if s.sr = false then { s with ph := .addrR } else s.decideResult .readAddr

/-- The rows of `ADDR_R`, after the PUT of SLA+R: no retry here (R129, R138). -/
def afterAddrR (s : State) : State :=
  if s.ac = AckClass.ack.code then { s with idx := 0, ph := .dataRx } else s.decideResult .readAddr

/-- The rows of `DATA_TX`, after the PUT of a data byte. -/
def afterDataTx (s : State) : State :=
  if s.ac = AckClass.ack.code then
    if s.idx.toNat + 1 < s.dLen.toNat then { s with idx := s.idx + 1 }
    else { s with idx := s.idx + 1 }.decideResult .ok
  else if s.ac = AckClass.nack.code then s.decideResult .dataRejected
  else s.decideResult .hwFault

/-- `BUF[IDX] <- DATA` (R43, R130). -/
def storeData (s : State) : State := { s with buf := s.buf.write s.idx.toNat s.data }

/-- The rows of `DATA_RX`, after the receive of a data byte: this phase has no failure exit (R130). -/
def afterDataRx (s : State) : State :=
  if s.idx.toNat + 1 < s.dLen.toNat then { storeData s with idx := s.idx + 1 }
  else { storeData s with idx := s.idx + 1 }.decideResult .ok

/-- What the sequencer does when the procedure its phase called has ended, by its result registers (R87, R132). In `IDLE`
and `ENTER` there is no bus operation, so nothing is done. -/
def afterOperation (s : State) : State :=
  match s.ph with
  | .idle => s
  | .enter => s
  | .start1 => afterStart1 s
  | .addrW => afterAddrW s
  | .regAddr => afterRegAddr s
  | .start2 => afterStart2 s
  | .addrR => afterAddrR s
  | .dataTx => afterDataTx s
  | .dataRx => afterDataRx s
  | .stopping => s.returnCode s.rcp
  | .prim => s.returnPrimitive

/-- The environment completes the operation in flight: the rest of the procedure that issued it, then the sequencer. With
no operation in flight there is nothing to complete (R46). -/
def busCompletes (ans : Answer) (s : State) : State :=
  match s.leOp with
  | .none => s
  | .start => afterOperation (startDone ans s)
  | .stop => afterOperation (stopDone ans s)
  | .tx b => afterOperation (putDone b ans s)
  | .rx a => afterOperation (getDone a ans s)

/-- The controller's steps that the world schedules next, in order, for as long as a command runs: it stops at the
return, at a host access, at a reset, and where nothing is scheduled any more (log 4). The list is `s.world`. -/
def runController : List Stimulus → State → State
  | [], s => s
  | .tick :: rest, s =>
    if s.busy then runController rest (controllerTurn { s with world := rest }) else s
  | .bus ans :: rest, s =>
    if s.busy then runController rest (busCompletes ans { s with world := rest }) else s
  | .host _ :: _, s => s
  | .reset _ :: _, s => s

/-- Acceptance of a command other than INIT, with `ph` its first phase (R69): the tests in their order, the latches,
`BUSY` and `PH`. From there the controller takes the steps the world schedules. -/
def acceptCommand (i : Instr) (ph : Phase) (s : State) : Host.Outcome State Fault Refusal :=
  if s.busy then .fault .reentry
  else if !s.en then .refused .notInitialised
  else .next (runController s.world { s.latch (descriptorOf i) with busy := true, ph := ph })

end Sys2Proof.Machine
end

