-- ==== Sys2Proof/Machine/ByteTransceiver.lean ====
section
/-! DEFINITION. The commands of the byte transceiver (41_byte_transceiver.md). -/

namespace Sys2Proof.Machine

/-- PUT, by the primitive step of R87 and the procedure of R101. -/
def execPut (byte : Byte) (s : State) : Host.Outcome State Fault Refusal := acceptCommand (.put byte) .prim s

/-- GETN, by the primitive step of R87 and the procedure GET(0) (R105, R106). -/
def execGetn (s : State) : Host.Outcome State Fault Refusal := acceptCommand .getn .prim s

/-- GETA, by the primitive step of R87 and the procedure GET(1) (R104, R106). -/
def execGeta (s : State) : Host.Outcome State Fault Refusal := acceptCommand .geta .prim s

end Sys2Proof.Machine
end

