-- ==== Sys2Proof/Machine/ConditionGenerator.lean ====
section
/-! DEFINITION. The commands of the start/stop condition generator (40_condition_generator.md). -/

namespace Sys2Proof.Machine

/-- START, by the primitive step of R87 and the procedure of R81. -/
def execStart (s : State) : Host.Outcome State Fault Refusal := acceptCommand .start .prim s

/-- STOP, by the primitive step of R87 and the procedure of R84. -/
def execStop (s : State) : Host.Outcome State Fault Refusal := acceptCommand .stop .prim s

end Sys2Proof.Machine
end

