-- ==== Sys2Proof/Machine/Configuration.lean ====
section
/-! DEFINITION. The configuration command (43_configuration.md). -/

namespace Sys2Proof.Machine

/-- INIT: executed whole in the acceptance step, exactly once (R160, R161, R69). -/
def execInit (div : Divisor) (s : State) : Host.Outcome State Fault Refusal :=
  if s.busy then .fault .reentry
  else if s.en then .refused .alreadyInitialised
  else .next { s.latch (descriptorOf (.init div)) with div := div, en := true }

end Sys2Proof.Machine
end

