-- ==== Sys2Proof/Machine/TransactionEngine.lean ====
section
/-! DEFINITION. The commands of the transaction engine (42_transaction_engine.md). -/

namespace Sys2Proof.Machine

/-- WRITE, by the transition table of R132 from `ENTER` on (R122). -/
def execWrite (sla : SlaveAddr) (len reg : Byte) (s : State) : Host.Outcome State Fault Refusal :=
  acceptCommand (.write sla len reg) .enter s

/-- READ, by the transition table of R132 from `ENTER` on (R123). -/
def execRead (sla : SlaveAddr) (len reg : Byte) (s : State) : Host.Outcome State Fault Refusal :=
  acceptCommand (.read sla len reg) .enter s

end Sys2Proof.Machine
end

