-- ==== Sys2Proof/Machine/Dispatch.lean ====
section
/-! DEFINITION. One arm per command. -/

namespace Sys2Proof.Machine

def exec (i : Instr) (s : State) : Host.Outcome State Fault Refusal :=
  match i with
  | .init div => Sys2Proof.Machine.execInit div s
  | .start => Sys2Proof.Machine.execStart s
  | .stop => Sys2Proof.Machine.execStop s
  | .put byte => Sys2Proof.Machine.execPut byte s
  | .getn => Sys2Proof.Machine.execGetn s
  | .geta => Sys2Proof.Machine.execGeta s
  | .write sla len reg => Sys2Proof.Machine.execWrite sla len reg s
  | .read sla len reg => Sys2Proof.Machine.execRead sla len reg s

end Sys2Proof.Machine
end

