-- ==== Sys2Proof/Machine/HostPort.lean ====
section
/-! DEFINITION. The host's accesses to the window of 20_memory.md R41, R42, R45. -/

namespace Sys2Proof.Machine

/-- The offset of `CMD` (R41). -/
def offCmd : Offset := 0x000
/-- The offset of `STAT` (R41). -/
def offStat : Offset := 0x004
/-- The offset of `RES` (R41). -/
def offRes : Offset := 0x008
/-- The offset of `CFG` (R41). -/
def offCfg : Offset := 0x00C
/-- The offset of buffer byte `i` (R41). -/
def offBuf (i : Byte) : Offset := (1 : BitVec 1) ++ i

/-- The three parts of the window (R41). -/
inductive Region where
  /-- `0x000` to `0x00F`: the four registers. -/
  | registers
  /-- `0x010` to `0x0FF`: nothing. -/
  | hole
  /-- `0x100` to `0x1FF`: the buffer byte of that index. -/
  | buffer (index : Nat)
  deriving DecidableEq, Repr

/-- The part of the window an offset lies in (R41). -/
def regionOf (off : Offset) : Region :=
  if off.toNat < 0x010 then .registers
  else if off.toNat < 0x100 then .hole
  else .buffer (off.toNat - 0x100)

/-- Whether an access to the register part has the width and the alignment R45 asks for. -/
def registerAccessOk (width : Width) (off : Offset) : Bool :=
  decide (width = .word) && decide (off.toNat % 4 = 0)

/-- What a 32-bit read of a register returns; `CMD` reads as 0 (R25, R41). -/
def registerValue (off : Offset) (s : State) : Word :=
  if off = offStat then statImage s
  else if off = offRes then resImage s
  else if off = offCfg then cfgImage s
  else 0

/-- A host write of `w` to `CMD`: the busy test, then decoding, then the command (R69). -/
def writeCommand (w : Word) (s : State) : Host.Outcome State Fault Refusal :=
  if s.busy then .fault .reentry
  else
    match decode w with
    | .ok i => exec i s
    | .error _ => .refused .reservedEncoding

/-- A host read (R41, R42, R45): the value joins the replies and nothing else changes (R47). -/
def hostRead (width : Width) (off : Offset) (s : State) : Host.Outcome State Fault Refusal :=
  match regionOf off with
  | .registers =>
    if registerAccessOk width off then .next (s.reply (registerValue off s)) else .refused .badAccess
  | .hole => .refused .noSuchRegister
  | .buffer i =>
    if width = .byte then
      if s.busy then .fault .bufferRace else .next (s.reply ((s.buf.read i).setWidth 32))
    else .refused .badAccess

/-- A host write (R41, R42, R45). -/
def hostWrite (width : Width) (off : Offset) (value : Word) (s : State) : Host.Outcome State Fault Refusal :=
  match regionOf off with
  | .registers =>
    if registerAccessOk width off then
      if off = offCmd then writeCommand value s else .refused .writeToReadOnly
    else .refused .badAccess
  | .hole => .refused .noSuchRegister
  | .buffer i =>
    if width = .byte then
      if s.busy then .fault .bufferRace else .next { s with buf := s.buf.write i (value.setWidth 8) }
    else .refused .badAccess

/-- A host access (R41). -/
def hostAccess (a : HostAccess) (s : State) : Host.Outcome State Fault Refusal :=
  match a with
  | .read width off => hostRead width off s
  | .write width off value => hostWrite width off value s

/-- One step: the next stimulus of the world is taken off and acts on the block. Where nothing is left, nothing happens:
a block that waits for the environment, or for the host, goes on waiting (R46, R182). -/
def worldStep (s : State) : Host.Outcome State Fault Refusal :=
  match s.world with
  | [] => .next s
  | .host a :: rest => hostAccess a { s with world := rest }
  | .tick :: rest => .next (controllerTurn { s with world := rest })
  | .bus ans :: rest => .next (busCompletes ans { s with world := rest })
  | .reset draw :: rest => .next ({ s with world := rest }.strikeReset draw)

/-- The value of `EN` with which a word is taken and not turned away: 0 for INIT, 1 for every other command (R161); for a
reserved word the value stays. -/
def enableFor (w : Word) (en : Bool) : Bool :=
  match decode w with
  | .ok (.init _) => false
  | .ok .start => true
  | .ok .stop => true
  | .ok (.put _) => true
  | .ok .getn => true
  | .ok .geta => true
  | .ok (.write _ _ _) => true
  | .ok (.read _ _ _) => true
  | .error _ => en

/-- The state in which the host's write of `w` to `CMD` is what happens next, in a block configured as `w` needs it: an
INIT that has not come yet, or, for any other command, one that has (R161; log 9). -/
def presentCommand (w : Word) (s : State) : State :=
  { s with en := enableFor w s.en, world := .host (.write .word offCmd w) :: s.world }

end Sys2Proof.Machine
end

