-- ==== Sys2Proof/Machine/Step.lean ====
section
/-! DEFINITION. One step of the machine, and how an opcode-table word is made the next command. -/

namespace Sys2Proof.Machine

/-- One step of the machine: the next stimulus acts on the block. -/
def step (s : State) : Host.Outcome State Fault Refusal := worldStep s

/-- `s` with the table's word made the host's next write to `CMD`, which is where this block takes a command from (R51),
and `EN` as that command needs it, so that the very next step runs it (log 9). A table word of more than one command word
is none, and then nothing is presented. -/
def State.withFetchWord (s : State) (nbits w : Nat) : State :=
  match tableWord nbits w with
  | some word => presentCommand word s
  | none => s

end Sys2Proof.Machine
end

