-- ==== Sys2Proof/Machine/Environment.lean ====
section
/-! DEFINITION. The quiet bus and the reference slave of 95_test_vectors.md section 2: one named assumption on the
environment of 20_memory.md R46, used by statements that name it and by nothing in the machine (D24; log 15). -/

namespace Sys2Proof.Machine

/-- The modes of the reference slave. -/
inductive SlaveMode where
  | idle | addr | wFirst | wData | rd
  deriving DecidableEq, Repr

/-- The reference slave at its address: 256 registers, a pointer, a mode. -/
structure Slave where
  address : SlaveAddr
  regs : Memory
  ptr : Byte
  mode : SlaveMode
  deriving DecidableEq, Repr

/-- What the slave makes of a byte sent. -/
def Slave.onByte (b : Byte) (sl : Slave) : HwStatus × Slave :=
  match sl.mode with
  | .addr =>
    if b.extractLsb' 1 7 = sl.address then
      (.txAck, { sl with mode := if b.getLsbD 0 then .rd else .wFirst })
    else (.txNack, { sl with mode := .idle })
  | .wFirst => (.txAck, { sl with ptr := b, mode := .wData })
  | .wData => (.txAck, { sl with regs := sl.regs.write sl.ptr.toNat b, ptr := sl.ptr + 1 })
  | .idle => (.txNack, sl)
  | .rd => (.txNack, sl)

/-- The byte the slave sends, and what it makes of the answer; outside read mode the released line reads as ones. -/
def Slave.onReceive (ack : Bool) (sl : Slave) : Byte × Slave :=
  match sl.mode with
  | .rd => (sl.regs.read sl.ptr.toNat, { sl with ptr := sl.ptr + 1, mode := if ack then .rd else .idle })
  | .idle => (0xFF, sl)
  | .addr => (0xFF, sl)
  | .wFirst => (0xFF, sl)
  | .wData => (0xFF, sl)

/-- The answer of a quiet bus with this slave to the operation in flight, and the slave after it. The parts of an answer
that R46 does not give an operation are taken from `spare`. -/
def Slave.answer (spare : Answer) (held : Bool) (op : LineOp) (sl : Slave) : Answer × Slave :=
  match op with
  | .none => (spare, sl)
  | .start => ({ spare with status := if held then .rstart else .start }, { sl with mode := .addr })
  | .stop => (spare, { sl with mode := .idle })
  | .tx b => ({ spare with status := (sl.onByte b).1 }, (sl.onByte b).2)
  | .rx ack => ({ spare with byte := (sl.onReceive ack).1 }, (sl.onReceive ack).2)

/-- The block and the slave together take one step: the controller's turn, or the completion of the operation in
flight by the slave's answer. -/
def duoStep (spare : Answer) (d : Slave × State) : Slave × State :=
  if d.2.leOp = .none then (d.1, controllerTurn d.2)
  else ((d.1.answer spare d.2.held d.2.leOp).2, busCompletes (d.1.answer spare d.2.held d.2.leOp).1 d.2)

/-- The block and the slave together run until the command has returned, for at most `n` steps. -/
def duoRun (spare : Answer) : Nat → Slave × State → Slave × State
  | 0, d => d
  | n + 1, d => if d.2.busy then duoRun spare n (duoStep spare d) else d

end Sys2Proof.Machine
end

