-- ==== Sys2Proof/Machine/Invariant.lean ====
section
/-! DEFINITION. The invariants of the state (10_state.md R29, 42_transaction_engine.md R137, 43_configuration.md R160),
made strong enough that every step keeps them. -/

namespace Sys2Proof.Machine

/-- The operation in flight is the one the phase and the latches call for (R14, R87, R132). -/
def opFitsPhase (s : State) : Bool :=
  match s.leOp, s.ph with
  | .none, _ => true
  | .start, .start1 => true
  | .start, .start2 => true
  | .start, .prim => decide (s.dOp = Instr.start.opcode)
  | .stop, .stopping => true
  | .stop, .prim => decide (s.dOp = Instr.stop.opcode)
  | .tx b, .addrW => decide (b = addrByte s.dSla false)
  | .tx b, .regAddr => decide (b = s.dReg)
  | .tx b, .addrR => decide (b = addrByte s.dSla true)
  | .tx b, .dataTx => decide (b = s.buf.read s.idx.toNat)
  | .tx b, .prim => decide (s.dOp = (Instr.put 0).opcode) && decide (b = s.dByte)
  | .rx a, .dataRx => a == moreToCome s
  | .rx a, .prim => decide (s.dOp = if a then Instr.geta.opcode else Instr.getn.opcode)
  | _, _ => false

/-- While an operation is in flight `DONE` is 0, `SHIFT` holds the byte being sent and `ACKPOL` the answer chosen
(R21, R101, R106). -/
def latchesFitOp (s : State) : Bool :=
  match s.leOp with
  | .none => true
  | .start => !s.done
  | .stop => !s.done
  | .tx b => !s.done && decide (s.shift = b)
  | .rx a => !s.done && s.ackPol == a

/-- The phases of the retry loop and those after it, where `1 ≤ RETRY ≤ MAX_RESTARTS` (R29, R137). -/
def Phase.retryLoaded : Phase → Bool
  | .start1 => true
  | .addrW => true
  | .regAddr => true
  | .start2 => true
  | .addrR => true
  | .dataTx => true
  | .dataRx => true
  | .idle => false
  | .enter => false
  | .stopping => false
  | .prim => false

/-- The phases only a READ enters (R14). -/
def Phase.readOnly : Phase → Bool
  | .start2 => true
  | .addrR => true
  | .dataRx => true
  | .idle => false
  | .enter => false
  | .start1 => false
  | .addrW => false
  | .regAddr => false
  | .dataTx => false
  | .stopping => false
  | .prim => false

/-- The primitives' opcodes (R62, R87). -/
def isPrimitiveOp (op : BitVec 4) : Bool :=
  decide (op = Instr.start.opcode) || decide (op = Instr.stop.opcode) || decide (op = (Instr.put 0).opcode) ||
    decide (op = Instr.geta.opcode) || decide (op = Instr.getn.opcode)

/-- The composites' opcodes (R62), with the direction each latches (R19). -/
def isCompositeOp (op : BitVec 4) (dir : Bool) : Bool :=
  (decide (op = (Instr.write 0 0 0).opcode) && !dir) || (decide (op = (Instr.read 0 0 0).opcode) && dir)

/-- `BUSY = 0` exactly when `PH = IDLE`; `LE_OP ≠ None` only while `BUSY = 1`; no command runs before INIT, and nothing
holds the bus then (R29, R160, R161). -/
def State.controlInv (s : State) : Bool :=
  (s.busy == !decide (s.ph = .idle)) && (decide (s.leOp = .none) || s.busy) && (!s.busy || s.en) &&
    (s.en || !s.held)

/-- The opcode latched fits the phase (R14, R87). -/
def State.descriptorInv (s : State) : Bool :=
  match s.ph with
  | .idle => true
  | .prim => isPrimitiveOp s.dOp
  | .enter => isCompositeOp s.dOp s.dDir
  | .start1 => isCompositeOp s.dOp s.dDir
  | .addrW => isCompositeOp s.dOp s.dDir
  | .regAddr => isCompositeOp s.dOp s.dDir
  | .stopping => isCompositeOp s.dOp s.dDir
  | .start2 => isCompositeOp s.dOp s.dDir && s.dDir
  | .addrR => isCompositeOp s.dOp s.dDir && s.dDir
  | .dataRx => isCompositeOp s.dOp s.dDir && s.dDir
  | .dataTx => isCompositeOp s.dOp s.dDir && !s.dDir

/-- `1 ≤ RETRY ≤ MAX_RESTARTS` and `D_LEN > 0` where the counter is loaded; `IDX < D_LEN` in a data phase; the pending
code is one of the seven (R29, R137, R134 (h)). -/
def State.counterInv (s : State) : Bool :=
  (!s.ph.retryLoaded || (decide (0 < s.retry.toNat) && decide (s.retry.toNat ≤ s.cfg.maxRestarts.toNat) &&
    decide (0 < s.dLen.toNat))) &&
    (!(decide (s.ph = .dataTx) || decide (s.ph = .dataRx)) || decide (s.idx.toNat < s.dLen.toNat)) &&
    (!decide (s.ph = .stopping) || decide (s.rcp.toNat ≤ 6))

/-- The invariant of the block. -/
def State.inv (s : State) : Bool :=
  s.cfg.legal && s.buf.wf && s.controlInv && s.descriptorInv && s.counterInv && opFitsPhase s && latchesFitOp s

end Sys2Proof.Machine
end

