-- ==== Sys2Proof/Machine/Procedures.lean ====
section
/-! DEFINITION. WRITE and READ as the procedures of 42_transaction_engine.md R122, R123, R125 give them, over the list of
the environment's answers in the order asked. The machine runs the table of R132 (Sequencer.lean); R133 says the two
agree, and a statement of Obligations.lean says so of these definitions. -/

namespace Sys2Proof.Machine

/-- How a procedure comes out: it ended, with what is left of the answers, or it hangs at the operation in flight because
no answer is left (R46). -/
inductive ProcResult (α : Type) where
  | ended (value : α) (rest : List Answer) (s : State)
  | hung (s : State)
  deriving DecidableEq, Repr

/-- Sequencing: a procedure that hangs never gets further. -/
def ProcResult.andThen {α β : Type} (r : ProcResult α) (k : α → List Answer → State → ProcResult β) : ProcResult β :=
  match r with
  | .ended v rest s => k v rest s
  | .hung s => .hung s

/-- `call START()` (R81). -/
def callStart : List Answer → State → ProcResult Unit
  | [], s => .hung (startIssue s)
  | ans :: rest, s => .ended () rest (startDone ans (startIssue s))

/-- `call STOP()` (R84). -/
def callStop : List Answer → State → ProcResult Unit
  | [], s => .hung (stopIssue s)
  | ans :: rest, s => .ended () rest (stopDone ans (stopIssue s))

/-- `call PUT(b)` (R101). -/
def callPut (b : Byte) : List Answer → State → ProcResult Unit
  | [], s => .hung (putIssue b s)
  | ans :: rest, s => .ended () rest (putDone b ans (putIssue b s))

/-- `call GET(a)` (R106). -/
def callGet (a : Bool) : List Answer → State → ProcResult Unit
  | [], s => .hung (getIssue a s)
  | ans :: rest, s => .ended () rest (getDone a ans (getIssue a s))

/-- The loop of PREFIX() with at most `n` attempts left (R125): none is "break loop", a code is an abort. `RETRY` is at
least 1 here and is tested after each decrement, so `n = RETRY` attempts are enough (R137). -/
def prefixLoop : Nat → List Answer → State → ProcResult (Option ResultCode)
  | 0, rest, s => .ended (some .startFailed) rest s
  | n + 1, answers, s =>
    (callStart answers s).andThen fun _ rest s =>
      if s.sr then
        if s.retry - 1 = 0 then .ended (some .startFailed) rest { s with retry := s.retry - 1 }
        else prefixLoop n rest { s with retry := s.retry - 1 }
      else
        (callPut (addrByte s.dSla false) rest s).andThen fun _ rest s =>
          if s.ac = AckClass.nack.code then
            if s.retry - 1 = 0 then .ended (some .addrFailed) rest { s with retry := s.retry - 1 }
            else prefixLoop n rest { s with retry := s.retry - 1 }
          else if s.ac = AckClass.ack.code then .ended none rest s
          else .ended (some .hwFault) rest s

/-- PREFIX(): none is `Go`, a code is `Abort` (R125). -/
def prefixProc (answers : List Answer) (s : State) : ProcResult (Option ResultCode) :=
  (prefixLoop s.cfg.maxRestarts.toNat answers { s with retry := s.cfg.maxRestarts }).andThen fun r rest s =>
    match r with
    | some c => .ended (some c) rest s
    | none =>
      (callPut s.dReg rest s).andThen fun _ rest s =>
        if s.ac = AckClass.nack.code then .ended (some .regAddrRejected) rest s
        else if s.ac = AckClass.ack.code then .ended none rest s
        else .ended (some .hwFault) rest s

/-- `call STOP(); return c` (R16, R127). -/
def stopAndReturn (c : ResultCode) (answers : List Answer) (s : State) : ProcResult ResultCode :=
  (callStop answers s).andThen fun _ rest s => .ended c rest (s.returnCode (c.code s.cfg))

/-- Step 5 of WRITE with `n` bytes left (R122, R128). -/
def writeLoop : Nat → List Answer → State → ProcResult ResultCode
  | 0, answers, s => .ended .ok answers s
  | n + 1, answers, s =>
    (callPut (s.buf.read s.idx.toNat) answers s).andThen fun _ rest s =>
      if s.ac = AckClass.nack.code then .ended .dataRejected rest s
      else if s.ac = AckClass.ack.code then writeLoop n rest { s with idx := s.idx + 1 }
      else .ended .hwFault rest s

/-- WRITE (R122). -/
def writeProc (answers : List Answer) (s : State) : ProcResult ResultCode :=
  if s.dLen = 0 then .ended .ok answers (s.returnCode (ResultCode.ok.code s.cfg))
  else
    (prefixProc answers s).andThen fun r rest s =>
      match r with
      | some c => stopAndReturn c rest s
      | none => (writeLoop s.dLen.toNat rest { s with idx := 0 }).andThen stopAndReturn

/-- Step 6 of READ with `n` bytes left: every byte but the last is answered ACK (R123, R130). -/
def readLoop : Nat → List Answer → State → ProcResult ResultCode
  | 0, answers, s => .ended .ok answers s
  | n + 1, answers, s =>
    (callGet (n != 0) answers s).andThen fun _ rest s =>
      readLoop n rest { s with buf := s.buf.write s.idx.toNat s.data, idx := s.idx + 1 }

/-- READ (R123). -/
def readProc (answers : List Answer) (s : State) : ProcResult ResultCode :=
  if s.dLen = 0 then .ended .ok answers (s.returnCode (ResultCode.ok.code s.cfg))
  else
    (prefixProc answers s).andThen fun r rest s =>
      match r with
      | some c => stopAndReturn c rest s
      | none =>
        (callStart rest s).andThen fun _ rest s =>
          if s.sr then stopAndReturn .readAddr rest s
          else
            (callPut (addrByte s.dSla true) rest s).andThen fun _ rest s =>
              if s.ac = AckClass.ack.code then
                (readLoop s.dLen.toNat rest { s with idx := 0 }).andThen stopAndReturn
              else stopAndReturn .readAddr rest s

/-- The world of a bus that completes every operation as soon as it is issued, with these answers, and then never again:
one turn for `ENTER`, then for each answer the turn that issues the operation and its completion, then one turn more. -/
def promptWorld (answers : List Answer) : List Stimulus :=
  .tick :: (answers.flatMap (fun ans => [.tick, .bus ans]) ++ [.tick])

/-- The elements R133 compares, and the operation in flight. -/
def sameOutcome (s t : State) : Bool :=
  decide (s.trace = t.trace) && decide (s.rc = t.rc) && decide (s.retry = t.retry) && decide (s.idx = t.idx) &&
    decide (s.sr = t.sr) && decide (s.ac = t.ac) && decide (s.data = t.data) && decide (s.held = t.held) &&
    decide (s.buf = t.buf) && decide (s.leOp = t.leOp) && decide (s.busy = t.busy)

/-- Whether a state is what a procedure came out as: the same elements and, where it ended, its code in `RC` (R133). -/
def agreesWith (t : State) (r : ProcResult ResultCode) : Bool :=
  match r with
  | .ended c _ s => sameOutcome t s && decide (t.rc = c.code t.cfg)
  | .hung s => sameOutcome t s

end Sys2Proof.Machine
end

