-- ==== Sys2Proof/Machine/Script.lean ====
section
/-! DEFINITION. Host programs: the script statements of 30_encoding.md R67 and the document's calls over them (R68). The
host is outside the block; here it is a reader and writer of the window like any other. -/

namespace Sys2Proof.Machine

/-- The registers a script reads (R67). -/
inductive HostReg where
  | stat | res | cfg
  deriving DecidableEq, Repr

/-- The offset of a register (R41). -/
def HostReg.offset : HostReg → Offset
  | .stat => offStat
  | .res => offRes
  | .cfg => offCfg

/-- The statements of a script (R67). -/
inductive Stmt where
  | cmd (i : Instr)
  | wait
  | bufw (i v : Byte)
  | bufr (i : Byte)
  | rd (r : HostReg)
  deriving DecidableEq, Repr

/-- The access a statement makes; for `wait`, the one it repeats (R67). -/
def Stmt.access : Stmt → HostAccess
  | .cmd i => .write .word offCmd (encode i)
  | .wait => .read .word offStat
  | .bufw i v => .write .byte (offBuf i) (v.setWidth 32)
  | .bufr i => .read .byte (offBuf i)
  | .rd r => .read .word r.offset

/-- A statement's access and nothing else (R67): what the world schedules is set aside while the host makes it, so a
command written by `cmd` is accepted and takes no step yet. -/
def hostActs (a : HostAccess) (s : State) : Host.Outcome State Fault Refusal :=
  match hostAccess a { s with world := [] } with
  | .next t => .next { t with world := s.world }
  | .fault f => .fault f
  | .refused r => .refused r

/-- `wait`: `STAT` is read until `STAT[0]` is 0; between two reads the next stimulus of the world acts (log 16). Where
none is left the host polls for ever, and the state is one with `BUSY = 1` (R67, R197). The list is `s.world`. -/
def playWait : List Stimulus → State → Host.Outcome State Fault Refusal
  | [], s => hostActs Stmt.wait.access s
  | _ :: rest, s =>
    match hostActs Stmt.wait.access s with
    | .next s1 =>
      if (registerValue offStat s).getLsbD 0 then
        match worldStep s1 with
        | .next s2 => playWait rest s2
        | .fault f => .fault f
        | .refused r => .refused r
      else .next s1
    | .fault f => .fault f
    | .refused r => .refused r

/-- One statement (R67). -/
def playStmt (x : Stmt) (s : State) : Host.Outcome State Fault Refusal :=
  match x with
  | .wait => playWait s.world s
  | .cmd i => hostActs (Stmt.cmd i).access s
  | .bufw i v => hostActs (Stmt.bufw i v).access s
  | .bufr i => hostActs (Stmt.bufr i).access s
  | .rd r => hostActs (Stmt.rd r).access s

/-- A script is played statement by statement; a `wait` that does not end is where it stays (R67). -/
def playScript : List Stmt → State → Host.Outcome State Fault Refusal
  | [], s => .next s
  | x :: rest, s =>
    match playStmt x s with
    | .next t => if x = .wait ∧ t.busy = true then .next t else playScript rest t
    | .fault f => .fault f
    | .refused r => .refused r

/-- The document's calls (R68). -/
inductive Call where
  | init (div : Divisor)
  | start
  | stop
  | putByte (b : Byte)
  | getByteAck
  | getByteNack
  | write (sla : SlaveAddr) (reg : Byte) (bytes : List Byte)
  | read (sla : SlaveAddr) (len reg : Byte)
  deriving DecidableEq, Repr

/-- A buffer has at most 255 bytes to send (R19, D6). -/
def Call.wellFormed : Call → Bool
  | .write _ _ bytes => decide (bytes.length ≤ 255)
  | .init _ => true
  | .start => true
  | .stop => true
  | .putByte _ => true
  | .getByteAck => true
  | .getByteNack => true
  | .read _ _ _ => true

/-- `bufw i, b` for each byte from index `i` on. -/
def fillStmts : Nat → List Byte → List Stmt
  | _, [] => []
  | i, b :: bs => .bufw (BitVec.ofNat 8 i) b :: fillStmts (i + 1) bs

/-- The expansion of a call (R68). -/
def Call.script : Call → List Stmt
  | .init div => [.cmd (.init div)]
  | .start => [.cmd .start, .wait, .rd .res]
  | .stop => [.cmd .stop, .wait]
  | .putByte b => [.cmd (.put b), .wait, .rd .res]
  | .getByteAck => [.cmd .geta, .wait, .rd .res]
  | .getByteNack => [.cmd .getn, .wait, .rd .res]
  | .write sla reg bytes =>
    fillStmts 0 bytes ++ [.cmd (.write sla (BitVec.ofNat 8 bytes.length) reg), .wait, .rd .res]
  | .read sla len reg =>
    [.cmd (.read sla len reg), .wait, .rd .res] ++ (List.range len.toNat).map (fun i => .bufr (BitVec.ofNat 8 i))

/-- The value a call returns, from the word read at `RES`, as a number (R68); `init` and `stop` return none. -/
def Call.value (res : Word) : Call → Option Nat
  | .init _ => none
  | .stop => none
  | .start => some (res.extractLsb' 4 1).toNat
  | .putByte _ => some (res.extractLsb' 5 3).toNat
  | .getByteAck => some (res.extractLsb' 8 8).toNat
  | .getByteNack => some (res.extractLsb' 8 8).toNat
  | .write _ _ _ => some (res.extractLsb' 0 4).toNat
  | .read _ _ _ => some (res.extractLsb' 0 4).toNat

end Sys2Proof.Machine
end

