-- ==== Sys2Proof/Safety.lean ====
section
/-! DEFINITION. The terms claims are made in: what a run is, when it is safe, when a command has ended, what a disciplined
host does, and how the document counts the events of a trace. -/

namespace Sys2Proof.Machine

/-- `n` steps of the machine, stopping at the first fault or refusal: the host's `Host.Core.run` of this machine, written
over `step` (Laws/Run.lean proves the two equal). -/
def runSteps : Nat → State → Host.Outcome State Fault Refusal
  | 0, s => .next s
  | n + 1, s =>
    match step s with
    | .next u => runSteps n u
    | .fault f => .fault f
    | .refused r => .refused r

/-- A run is safe if it does not end in a fault (R182: a faulted run has no result). -/
def SafeRun (n : Nat) (s : State) : Prop := ∀ f : Fault, runSteps n s ≠ .fault f

/-- A command has ended when `BUSY` is 0 again (R201). -/
def ended (s : State) : Bool := !s.busy

/-- The block is idle, initialised, and nothing is in flight: the states in which a command other than INIT is accepted
(R69; R201 gives `LE_OP = None` whenever `BUSY = 0`). -/
def State.ready (s : State) : Bool := !s.busy && s.en && decide (s.leOp = .none)

/-- The outcome with `f` applied to its next state. -/
def mapNext (f : State → State) : Host.Outcome State Fault Refusal → Host.Outcome State Fault Refusal
  | .next s => .next (f s)
  | .fault r => .fault r
  | .refused r => .refused r

/-- The accesses a host must not make while `BUSY = 1`: a 32-bit write to `CMD` and a byte access to the buffer (R52,
R195, R196). -/
def HostAccess.guarded : HostAccess → Bool
  | .write .word off _ => decide (off = offCmd)
  | .write .byte off _ => decide (0x100 ≤ off.toNat)
  | .read .byte off => decide (0x100 ≤ off.toNat)
  | .write .half _ _ => false
  | .read .half _ => false
  | .read .word _ => false

/-- The host keeps its duty at this step: what comes next is no guarded access of its own while a command runs (R195,
R196). -/
def disciplined (s : State) : Bool :=
  match s.world with
  | .host a :: _ => !(s.busy && a.guarded)
  | .tick :: _ => true
  | .bus _ :: _ => true
  | .reset _ :: _ => true
  | [] => true

/-- A host access, a controller turn or a completion comes next, no reset. -/
def noResetNext (s : State) : Bool :=
  match s.world with
  | .reset _ :: _ => false
  | .host _ :: _ => true
  | .tick :: _ => true
  | .bus _ :: _ => true
  | [] => true

/-- `n` steps of the machine lead from `s` to `t`, and before each of them a command runs and no reset comes next. The host
may read the registers between them; any other access of its own ends the run, by a fault or a refusal. -/
def RunsBusy : Nat → State → State → Prop
  | 0, s, t => t = s
  | n + 1, s, t => s.busy = true ∧ noResetNext s = true ∧ ∃ u, step s = .next u ∧ RunsBusy n u t

/-- What a command can have come to, running or returned: `n` single steps after its acceptance, whatever the world
schedules, and the steps end with its return at the latest (R69, R201). -/
def CommandRun (i : Instr) (s : State) (n : Nat) (t : State) : Prop :=
  ∃ u, exec i { s with world := [] } = .next u ∧ RunsBusy n { u with world := s.world } t

/-- `t` is what `exec` answers, or what some number of single steps after acceptance has led to. -/
def Reaches (i : Instr) (s t : State) : Prop := exec i s = .next t ∨ ∃ n, CommandRun i s n t

/-- Where a command other than INIT may not run: while another runs it is a fault, before INIT it is refused (R69, R161,
R195). -/
def TurnedAway (i : Instr) : Prop :=
  ∀ s : State, (s.busy = true → exec i s = .fault .reentry) ∧
    (s.busy = false → s.en = false → exec i s = .refused .notInitialised)

/-- A primitive whose bus operation never completes never returns, however many turns the controller takes: no event, no
result field written (R46, R87). -/
def HangsUnanswered (i : Instr) : Prop :=
  ∀ (s : State) (n : Nat), s.ready = true → s.world = List.replicate n .tick →
    ∃ t, exec i s = .next t ∧ t.busy = true ∧ t.ph = .prim ∧ t.trace = s.trace ∧ t.sr = s.sr ∧ t.ac = s.ac ∧
      t.data = s.data ∧ t.held = s.held

/-- A Start attempt: any Start event (R27). -/
def Event.isStart : Event → Bool
  | .start _ _ => true
  | .stop => false
  | .tx _ _ => false
  | .rx _ _ => false

/-- An accepted fresh Start, the document's "one Start" (R27). -/
def Event.isFreshAccepted : Event → Bool
  | .start .fresh hs => startOk hs
  | .start .repeated _ => false
  | .stop => false
  | .tx _ _ => false
  | .rx _ _ => false

/-- An accepted Repeated Start, the document's "one Repeated-Start" (R27). -/
def Event.isRepeatedAccepted : Event → Bool
  | .start .repeated hs => startOk hs
  | .start .fresh _ => false
  | .stop => false
  | .tx _ _ => false
  | .rx _ _ => false

/-- A Stop (R27). -/
def Event.isStop : Event → Bool
  | .stop => true
  | .start _ _ => false
  | .tx _ _ => false
  | .rx _ _ => false

/-- An event without the label Fresh or Repeated (R18: the one thing `HELD` is for). -/
def Event.forgetKind : Event → Event
  | .start _ hs => .start .fresh hs
  | .stop => .stop
  | .tx b hs => .tx b hs
  | .rx b a => .rx b a

/-- A state without `HELD` and the labels it gives (R18). -/
def State.forgetHeld (s : State) : State := { s with held := false, trace := s.trace.map Event.forgetKind }

/-- A state without the line-engine latches that only the line engine reads (R21). -/
def State.forgetLatches (s : State) : State :=
  { s with hwstat := .other, shift := 0, done := false, ackPol := false }

/-- The acknowledgements of the receives of a trace, in order: true for `AckSent` (R27). -/
def receiveAcks : List Event → List Bool
  | [] => []
  | .rx _ a :: es => a :: receiveAcks es
  | .start _ _ :: es => receiveAcks es
  | .stop :: es => receiveAcks es
  | .tx _ _ :: es => receiveAcks es

/-- "Start attempts" (R27). -/
def startAttempts (es : List Event) : Nat := es.countP Event.isStart

/-- "Stop count" (R27). -/
def stopCount (es : List Event) : Nat := es.countP Event.isStop

end Sys2Proof.Machine
end

