-- ==== Sys2Proof/Certificates/Slice0/Obligations.lean ====
section
/-! DEFINITION. The statements for the provers, by the numbered rules of spec/. Nothing is proved here. -/

open Sys2Proof Sys2Proof.Machine

/-! ## Encoding (30_encoding.md) -/

/-- R61, R62, R63: decoding the word of a command gives the command back, with every operand at every value. -/
def Obligations.DecodeOfEncodeIsTheInstruction : Prop :=
  ∀ i : Instr, decode (encode i) = .ok i

/-- R61, R62, R64: a word that decodes is the word of what it decodes to, so no bit of it is ignored. -/
def Obligations.EncodeOfDecodeIsTheWord : Prop :=
  ∀ (w : Word) (i : Instr), decode w = .ok i → encode i = w

/-- R62: a word is a command exactly when it matches that command's row, and then its operands are the word's fields. -/
def Obligations.WordIsTheCommandOfTheRowItMatches : Prop :=
  ∀ w : Word,
    ((decode w = .ok (.init (w.extractLsb' 12 16))) ↔ w &&& 0xF0000FFF = 0x00000001) ∧
    ((decode w = .ok .start) ↔ w &&& 0xFFFFFFFF = 0x00000002) ∧
    ((decode w = .ok .stop) ↔ w &&& 0xFFFFFFFF = 0x00000003) ∧
    ((decode w = .ok (.put (w.extractLsb' 12 8))) ↔ w &&& 0xFFF00FFF = 0x00000004) ∧
    ((decode w = .ok .getn) ↔ w &&& 0xFFFFFFFF = 0x00000006) ∧
    ((decode w = .ok .geta) ↔ w &&& 0xFFFFFFFF = 0x00000007) ∧
    ((decode w = .ok (.write (w.extractLsb' 4 7) (w.extractLsb' 20 8) (w.extractLsb' 12 8))) ↔
      w &&& 0xF000080F = 0x00000008) ∧
    ((decode w = .ok (.read (w.extractLsb' 4 7) (w.extractLsb' 20 8) (w.extractLsb' 12 8))) ↔
      w &&& 0xF000080F = 0x00000009)

/-- R64: a word that matches no row of R62 is refused as a reserved encoding when the host writes it to `CMD` of a block
that is not busy. -/
def Obligations.ReservedWordIsRefused : Prop :=
  ∀ (s : State) (w : Word) (rest : List Stimulus), s.busy = false →
    s.world = .host (.write .word 0x000 w) :: rest →
    (∀ r ∈ opcodeMap, w &&& r.mask ≠ r.value) → step s = .refused .reservedEncoding

/-- 95_test_vectors.md section 4: words written out there decode to the commands they stand for. -/
def Obligations.SpecEncodingVectorsDecode : Prop :=
  decode 0x00048001 = .ok (.init 72) ∧ decode 0x00000002 = .ok .start ∧ decode 0x00000003 = .ok .stop ∧
  decode 0x000A6004 = .ok (.put 0xA6) ∧ decode 0x00000006 = .ok .getn ∧ decode 0x00000007 = .ok .geta ∧
  decode 0x0012D538 = .ok (.write 0x53 1 0x2D) ∧ decode 0x00632539 = .ok (.read 0x53 6 0x32) ∧
  decode 0x00000000 = .error .reservedOpcode ∧ decode 0x00000808 = .error .mustBeZero

/-- R66: an assembly line stands for a command exactly when its operands are in the ranges of the table, 0 to 65535, 0 to
255 and 0 to 127, and then the command's operands are those numbers, in the order of the table; the check accepts a line
exactly in those ranges. -/
def Obligations.AssemblerTakesExactlyTheOperandRanges : Prop :=
  (∀ (a : Asm) (i : Instr), a.assemble = some i ↔
    match a, i with
    | .init div, .init d => div ≤ 65535 ∧ d.toNat = div
    | .start, .start => True
    | .stop, .stop => True
    | .put byte, .put b => byte ≤ 255 ∧ b.toNat = byte
    | .geta, .geta => True
    | .getn, .getn => True
    | .write sla len reg, .write a l r =>
      (sla ≤ 127 ∧ len ≤ 255 ∧ reg ≤ 255) ∧ a.toNat = sla ∧ l.toNat = len ∧ r.toNat = reg
    | .read sla len reg, .read a l r =>
      (sla ≤ 127 ∧ len ≤ 255 ∧ reg ≤ 255) ∧ a.toNat = sla ∧ l.toNat = len ∧ r.toNat = reg
    | _, _ => False) ∧
  ∀ a : Asm, a.wellFormed = true ↔
    match a with
    | .init div => div ≤ 65535
    | .put byte => byte ≤ 255
    | .write sla len reg => sla ≤ 127 ∧ len ≤ 255 ∧ reg ≤ 255
    | .read sla len reg => sla ≤ 127 ∧ len ≤ 255 ∧ reg ≤ 255
    | .start => True
    | .stop => True
    | .geta => True
    | .getn => True

/-! ## Acceptance and the host port (30_encoding.md R69, 20_memory.md) -/

/-- R69: when the host writes a word to `CMD` of a block that is not busy and the word decodes to a command, the step is
that command's `exec`, in the state without the stimulus that was taken off. -/
def Obligations.StepRunsTheDecodedCommand : Prop :=
  ∀ (s : State) (w : Word) (i : Instr) (rest : List Stimulus), s.busy = false →
    s.world = .host (.write .word 0x000 w) :: rest → decode w = .ok i →
    step s = exec i { s with world := rest }

/-- R69, R195: a write to `CMD` while `BUSY = 1` is `Fault(Reentry)`, whatever the word, a reserved one included. -/
def Obligations.CommandWhileBusyIsReentry : Prop :=
  ∀ (s : State), s.busy = true →
    (∀ (w : Word) (rest : List Stimulus), s.world = .host (.write .word 0x000 w) :: rest → step s = .fault .reentry) ∧
    (∀ i : Instr, exec i s = .fault .reentry)

/-- R161: before INIT every other command is refused; after it INIT is; no command returns `EN` to 0, a reset does, from
any state. -/
def Obligations.InitIsDueExactlyOnce : Prop :=
  (∀ (s : State) (i : Instr), s.busy = false →
    (s.en = false → (∀ d, i ≠ .init d) → exec i s = .refused .notInitialised) ∧
    (s.en = true → (∃ d, i = .init d) → exec i s = .refused .alreadyInitialised)) ∧
  (∀ (s t : State) (i : Instr), s.en = true → exec i s = .next t → t.en = true) ∧
  (∀ (s : State) (draw : ResetDraw) (rest : List Stimulus), s.world = .reset draw :: rest →
    ∃ t, step s = .next t ∧ t.en = false) ∧ State.reset.en = false

/-- R160: INIT completes in its acceptance step: `DIV`, `EN`, and the latched descriptor, all zero but `D_OP` and `D_DIR`;
nothing else changes, and no bus operation, no event and no busy phase comes of it. With `EN = 1` it is refused, while a
command runs it is a fault. -/
def Obligations.InitCompletes : Prop :=
  ∀ (s : State) (d : Divisor),
    encode (.init d) = 0x00000001 ||| (d.setWidth 32 <<< 12) ∧
    (s.busy = false → s.en = false →
      exec (.init d) s = .next { s with
        div := d, en := true, dOp := 1, dDir := true, dSla := 0, dReg := 0, dLen := 0, dByte := 0 }) ∧
    (s.busy = false → s.en = true → exec (.init d) s = .refused .alreadyInitialised) ∧
    (s.busy = true → exec (.init d) s = .fault .reentry)

/-- R69, R63: acceptance of a command other than INIT by itself, where no controller step is scheduled behind it: each
latch takes its field of the command's word, or 0 where the format has no such field, `BUSY <- 1` and `PH` is the first
phase; no event, no bus line touched. -/
def Obligations.AcceptanceLatchesAndSetsBusy : Prop :=
  ∀ (s : State) (i : Instr), s.ready = true → (∀ d, i ≠ .init d) →
    (∀ rest, s.world ≠ .tick :: rest) → (∀ ans rest, s.world ≠ .bus ans :: rest) →
    exec i s = .next { s with
      busy := true
      ph := match i with
        | .write _ _ _ | .read _ _ _ => .enter
        | .init _ | .start | .stop | .put _ | .getn | .geta => .prim
      dOp := (encode i).extractLsb' 0 4
      dDir := (encode i).getLsbD 0
      dSla := match i with
        | .write _ _ _ | .read _ _ _ => (encode i).extractLsb' 4 7
        | .init _ | .start | .stop | .put _ | .getn | .geta => 0
      dReg := match i with
        | .write _ _ _ | .read _ _ _ => (encode i).extractLsb' 12 8
        | .init _ | .start | .stop | .put _ | .getn | .geta => 0
      dLen := match i with
        | .write _ _ _ | .read _ _ _ => (encode i).extractLsb' 20 8
        | .init _ | .start | .stop | .put _ | .getn | .geta => 0
      dByte := match i with
        | .put _ => (encode i).extractLsb' 12 8
        | .init _ | .start | .stop | .getn | .geta | .write _ _ _ | .read _ _ _ => 0 }

/-- The model's choice (log 4), with R69 and R132 beneath it: `exec` of a command other than INIT is its acceptance
followed by single steps of the machine, as many as the world schedules for the controller directly behind it; a command
runs at each of them. -/
def Obligations.ExecIsAcceptanceThenSteps : Prop :=
  ∀ (s t : State) (i : Instr), s.busy = false → (∀ d, i ≠ .init d) → exec i s = .next t → ∃ n, CommandRun i s n t

/-- R25: every bit of `STAT`, `RES` and `CFG`, and that none of the three can be written. `STAT[7:4]` is the number R14
gives the phase, 0 for `IDLE` to 10 for `PRIM`. -/
def Obligations.RegisterImagesAreTheTable : Prop :=
  ∀ s : State,
    (statImage s).getLsbD 0 = s.busy ∧ (statImage s).getLsbD 1 = s.en ∧ (statImage s).getLsbD 2 = s.held ∧
    (statImage s).getLsbD 3 = false ∧ (statImage s).extractLsb' 4 4 = (match s.ph with
      | .idle => 0
      | .enter => 1
      | .start1 => 2
      | .addrW => 3
      | .regAddr => 4
      | .start2 => 5
      | .addrR => 6
      | .dataTx => 7
      | .dataRx => 8
      | .stopping => 9
      | .prim => 10) ∧
    (statImage s).extractLsb' 8 8 = s.retry ∧ (statImage s).extractLsb' 16 8 = s.idx ∧
    (statImage s).extractLsb' 24 8 = 0 ∧
    (resImage s).extractLsb' 0 4 = s.rc ∧ (resImage s).getLsbD 4 = s.sr ∧ (resImage s).extractLsb' 5 3 = s.ac ∧
    (resImage s).extractLsb' 8 8 = s.data ∧ (resImage s).extractLsb' 16 16 = 0 ∧
    (cfgImage s).extractLsb' 0 16 = s.div ∧ (cfgImage s).extractLsb' 16 16 = 0 ∧
    (∀ (off : Offset) (v : Word) (rest : List Stimulus), (off = 0x004 ∨ off = 0x008 ∨ off = 0x00C) →
      s.world = .host (.write .word off v) :: rest → step s = .refused .writeToReadOnly)

/-- R41, R42, R45, R47: what a host read does at every offset and width, and that it changes nothing but the host's
replies. Two clauses are the model's choice: the order of the tests, by which a wider read of the buffer is `badAccess`
even while a command runs (log 10), and that a byte joins the replies extended with zeros (log 19). -/
def Obligations.HostReadFollowsTheWindow : Prop :=
  ∀ (s : State) (width : Width) (off : Offset) (rest : List Stimulus),
    s.world = .host (.read width off) :: rest →
    step s =
      if off.toNat < 0x10 then
        if width = .word ∧ off.toNat % 4 = 0 then
          .next { s with
            world := rest
            replies := s.replies ++
              [if off = 0x004 then statImage s else if off = 0x008 then resImage s
                else if off = 0x00C then cfgImage s else 0] }
        else .refused .badAccess
      else if off.toNat < 0x100 then .refused .noSuchRegister
      else if width ≠ .byte then .refused .badAccess
      else if s.busy = true then .fault .bufferRace
      else .next { s with
        world := rest, replies := s.replies ++ [(s.buf.read (off.toNat - 0x100)).setWidth 32] }

/-- R41, R42, R45: what a host write other than a 32-bit write to `CMD` does at every offset and width. Two clauses are the
model's choice: the order of the tests, by which a narrow write to `CMD` and a wide write to the buffer are `badAccess`
even while a command runs (log 10), and that the byte stored is the low byte of the access's value (log 19). -/
def Obligations.HostWriteFollowsTheWindow : Prop :=
  ∀ (s : State) (width : Width) (off : Offset) (v : Word) (rest : List Stimulus),
    s.world = .host (.write width off v) :: rest → ¬ (width = .word ∧ off = 0x000) →
    step s =
      if off.toNat < 0x10 then
        if width = .word ∧ off.toNat % 4 = 0 then .refused .writeToReadOnly else .refused .badAccess
      else if off.toNat < 0x100 then .refused .noSuchRegister
      else if width ≠ .byte then .refused .badAccess
      else if s.busy = true then .fault .bufferRace
      else .next { s with world := rest, buf := s.buf.write (off.toNat - 0x100) (v.extractLsb' 0 8) }

/-- R42, with R24: a host byte write at index `i` is what a read of index `i` gives after it, and every other byte of the
buffer reads as before. That the byte is the low byte of the access's value is the model's choice (log 19). -/
def Obligations.HostBufferWriteStoresOneByte : Prop :=
  ∀ (s t : State) (i : Byte) (v : Word) (rest : List Stimulus), s.buf.wf = true →
    s.world = .host (.write .byte ((1 : BitVec 1) ++ i) v) :: rest → step s = .next t →
    t.buf.read i.toNat = v.extractLsb' 0 8 ∧ (∀ j, j ≠ i.toNat → t.buf.read j = s.buf.read j)

/-- The canonical form of the buffer (the model's, log 3): two canonical buffers whose 256 bytes read alike are the same
list. -/
def Obligations.CanonicalBuffersAreEqualWhenTheyReadAlike : Prop :=
  ∀ m n : Memory, m.wf = true → n.wf = true → (∀ i, i < 256 → m.read i = n.read i) → m = n

/-- R182, R52, R69, R42: the machine faults exactly when the host writes a word to `CMD` or a byte access touches the buffer
while `BUSY = 1`. The exactly is the model's choice (log 10): R52 speaks of any touch of the window, and a narrow write to
`CMD` or a wide access to the buffer is a `badAccess` here and no fault, busy or not. -/
def Obligations.FaultsAreExactlyTheBreachesWhileBusy : Prop :=
  ∀ (s : State) (f : Fault), step s = .fault f ↔
    (s.busy = true ∧ ∃ a rest, s.world = .host a :: rest ∧
      ((f = .reentry ∧ ∃ w, a = .write .word 0x000 w) ∨
       (f = .bufferRace ∧ ∃ off : Offset, 0x100 ≤ off.toNat ∧
         (a = .read .byte off ∨ ∃ v, a = .write .byte off v))))

/-- R194 to R196 with R182: a host that keeps away while `BUSY = 1` never meets a fault. -/
def Obligations.DisciplinedHostNeverFaults : Prop :=
  ∀ (n : Nat) (s : State),
    (∀ k t, k < n → runSteps k s = .next t → disciplined t = true) → SafeRun n s

/-- R52, R47: while a command runs, a host access that is neither refused nor a fault changes nothing but the replies. -/
def Obligations.HostCannotDisturbARunningCommand : Prop :=
  ∀ (s t : State) (a : HostAccess) (rest : List Stimulus), s.busy = true → s.world = .host a :: rest →
    step s = .next t → t = { s with world := rest, replies := t.replies }

/-! ## The condition generator (40_condition_generator.md) -/

/-- R81: START, completed with any status: `SR` and `HELD` say whether it was accepted, the event carries the kind by
`HELD` as it was and the status; nothing else changes. It is turned away where it may not run, and hangs
unanswered. R87: the same of the single step that completes it in `PRIM`. -/
def Obligations.StartCompletes : Prop :=
  encode .start = 0x00000002 ∧ TurnedAway .start ∧ HangsUnanswered .start ∧
  (∀ (s : State) (ans : Answer) (rest : List Stimulus), s.ph = .prim → s.leOp = .start → s.world = .bus ans :: rest →
    step s = .next { s with
      world := rest
      ph := .idle, busy := false, leOp := .none, done := true, hwstat := ans.status
      sr := !(ans.status == .start || ans.status == .rstart)
      held := ans.status == .start || ans.status == .rstart
      trace := s.trace ++ [.start (if s.held = true then .repeated else .fresh) ans.status] }) ∧
  ∀ (s : State) (ans : Answer) (rest : List Stimulus), s.ready = true → s.world = .tick :: .bus ans :: rest →
    exec .start s = .next { s with
      world := rest
      dOp := 2, dDir := false, dSla := 0, dReg := 0, dLen := 0, dByte := 0
      ph := .idle, busy := false, leOp := .none, done := true, hwstat := ans.status
      sr := !(ans.status == .start || ans.status == .rstart)
      held := ans.status == .start || ans.status == .rstart
      trace := s.trace ++ [.start (if s.held = true then .repeated else .fresh) ans.status] }

/-- R84: STOP, completed: `HELD <- 0` and the event; `SR`, `AC`, `DATA`, `RC` and everything else keep their values. It is
turned away where it may not run, and hangs unanswered. R87: the same of the single step that completes it in `PRIM`. -/
def Obligations.StopCompletes : Prop :=
  encode .stop = 0x00000003 ∧ TurnedAway .stop ∧ HangsUnanswered .stop ∧
  (∀ (s : State) (ans : Answer) (rest : List Stimulus), s.ph = .prim → s.leOp = .stop → s.world = .bus ans :: rest →
    ∃ hs, step s = .next { s with
      world := rest
      ph := .idle, busy := false, leOp := .none, done := true, hwstat := hs
      held := false
      trace := s.trace ++ [.stop] }) ∧
  ∀ (s : State) (ans : Answer) (rest : List Stimulus), s.ready = true → s.world = .tick :: .bus ans :: rest →
    ∃ hs, exec .stop s = .next { s with
      world := rest
      dOp := 3, dDir := true, dSla := 0, dReg := 0, dLen := 0, dByte := 0
      ph := .idle, busy := false, leOp := .none, done := true, hwstat := hs
      held := false
      trace := s.trace ++ [.stop] }

/-! ## The byte transceiver (41_byte_transceiver.md) -/

/-- R101, R103: PUT, completed with any status: `AC` is the number of its class, `HELD <- 0` on a lost arbitration only,
the event carries the byte and the status; `SHIFT` is left at some value. It is turned away where it may not run, and
hangs unanswered. R87: the same of the single step that completes it in `PRIM`. -/
def Obligations.PutCompletes : Prop :=
  (∀ b : Byte, encode (.put b) = 0x00000004 ||| (b.setWidth 32 <<< 12) ∧ TurnedAway (.put b) ∧
    HangsUnanswered (.put b)) ∧
  (∀ (s : State) (b : Byte) (ans : Answer) (rest : List Stimulus), s.ph = .prim → s.leOp = .tx b →
    s.world = .bus ans :: rest →
    ∃ x, step s = .next { s with
      world := rest
      ph := .idle, busy := false, leOp := .none, done := true, hwstat := ans.status, shift := x
      ac := match ans.status with
        | .txAck => 0
        | .txNack => 1
        | .arbLost => 2
        | .busError => 3
        | .start | .rstart | .other => 4
      held := if ans.status = .arbLost then false else s.held
      trace := s.trace ++ [.tx b ans.status] }) ∧
  ∀ (s : State) (b : Byte) (ans : Answer) (rest : List Stimulus), s.ready = true →
    s.world = .tick :: .bus ans :: rest →
    ∃ x, exec (.put b) s = .next { s with
      world := rest
      dOp := 4, dDir := false, dSla := 0, dReg := 0, dLen := 0, dByte := b
      ph := .idle, busy := false, leOp := .none, done := true, hwstat := ans.status, shift := x
      ac := match ans.status with
        | .txAck => 0
        | .txNack => 1
        | .arbLost => 2
        | .busError => 3
        | .start | .rstart | .other => 4
      held := if ans.status = .arbLost then false else s.held
      trace := s.trace ++ [.tx b ans.status] }

/-- R104, R105, R106: GETA and GETN, completed with any byte: `DATA` is that byte, and they differ in nothing but the
acknowledgement they give, ACK and NACK; `HELD`, `AC`, `SR` and everything else keep their values. They are turned away
where they may not run, and hang unanswered. R87: the same of the single step that completes a receive in `PRIM`, whose
acknowledgement was chosen when it was issued. -/
def Obligations.ReceiveCommandsComplete : Prop :=
  encode .geta = 0x00000007 ∧ TurnedAway .geta ∧ HangsUnanswered .geta ∧
  encode .getn = 0x00000006 ∧ TurnedAway .getn ∧ HangsUnanswered .getn ∧
  (∀ (s : State) (a : Bool) (ans : Answer) (rest : List Stimulus), s.ph = .prim → s.leOp = .rx a →
    s.world = .bus ans :: rest →
    ∃ hs, step s = .next { s with
      world := rest
      ph := .idle, busy := false, leOp := .none, done := true, hwstat := hs
      shift := ans.byte, data := ans.byte
      trace := s.trace ++ [.rx ans.byte a] }) ∧
  ∀ (s : State) (ans : Answer) (rest : List Stimulus), s.ready = true → s.world = .tick :: .bus ans :: rest →
    (∃ hs, exec .geta s = .next { s with
      world := rest
      dOp := 7, dDir := true, dSla := 0, dReg := 0, dLen := 0, dByte := 0
      ph := .idle, busy := false, leOp := .none, done := true, hwstat := hs
      shift := ans.byte, data := ans.byte, ackPol := true
      trace := s.trace ++ [.rx ans.byte true] }) ∧
    (∃ hs, exec .getn s = .next { s with
      world := rest
      dOp := 6, dDir := false, dSla := 0, dReg := 0, dLen := 0, dByte := 0
      ph := .idle, busy := false, leOp := .none, done := true, hwstat := hs
      shift := ans.byte, data := ans.byte, ackPol := false
      trace := s.trace ++ [.rx ans.byte false] })

/-- R80, R100: the frame of the five primitives, in every world and after every step up to the return: whatever the
environment does and whatever registers the host reads meanwhile, they leave the buffer, `RETRY`, `IDX`, `RC`, `RCP`, `EN`
and `DIV` alone, `SR` but for START, `AC` but for PUT, `DATA` and `ACKPOL` but for GETA and GETN, `HELD` but for START,
STOP and PUT, and they perform at most one bus operation; the host's replies grow by its own reads only. -/
def Obligations.PrimitiveFrame : Prop :=
  ∀ (s t : State) (i : Instr), s.ready = true →
    (i = .start ∨ i = .stop ∨ (∃ b, i = .put b) ∨ i = .geta ∨ i = .getn) → Reaches i s t →
    (∀ j, t.buf.read j = s.buf.read j) ∧ t.retry = s.retry ∧ t.idx = s.idx ∧ t.rc = s.rc ∧ t.rcp = s.rcp ∧
    t.en = s.en ∧ t.div = s.div ∧ t.cfg = s.cfg ∧ (exec i s = .next t → t.replies = s.replies) ∧
    (∃ vs, t.replies = s.replies ++ vs) ∧
    (i ≠ .start → t.sr = s.sr) ∧ ((∀ b, i ≠ .put b) → t.ac = s.ac) ∧
    (i ≠ .geta → i ≠ .getn → t.data = s.data ∧ t.ackPol = s.ackPol) ∧
    (i = .geta ∨ i = .getn → t.held = s.held) ∧
    ((t.busy = true ∧ t.trace = s.trace) ∨ (t.busy = false ∧ ∃ e, t.trace = s.trace ++ [e]))

/-! ## The transaction engine (42_transaction_engine.md) -/

/-- R124: a WRITE or a READ of length 0 returns success with no bus operation: `RETRY`, `IDX`, `SR`, `AC`, `DATA`,
`HELD`, `BUF` and the trace are unchanged. -/
def Obligations.LengthZeroReturnsWithoutTouchingTheBus : Prop :=
  ∀ (s : State) (sla : SlaveAddr) (reg : Byte) (rest : List Stimulus), s.ready = true → s.cfg.legal = true →
    s.world = .tick :: rest →
    exec (.write sla 0 reg) s = .next { s with
      world := rest, rc := 0, ph := .idle, busy := false
      dOp := 8, dDir := false, dSla := sla, dReg := reg, dLen := 0, dByte := 0 } ∧
    exec (.read sla 0 reg) s = .next { s with
      world := rest, rc := 0, ph := .idle, busy := false
      dOp := 9, dDir := true, dSla := sla, dReg := reg, dLen := 0, dByte := 0 }

/-- R21, R132, R87: what the controller issues in each phase of a command, when nothing is in flight; in `PRIM` by the
opcode latched. In a data phase of a WRITE the byte is read from the buffer at this moment (R43). -/
def Obligations.ControllerTurnIssuesThePhasesOperation : Prop :=
  ∀ (s t : State) (rest : List Stimulus), s.busy = true → s.cfg.legal = true → s.leOp = .none →
    s.world = .tick :: rest → step s = .next t →
    (s.ph = .start1 ∨ s.ph = .start2 → t = { s with world := rest, leOp := .start, done := false }) ∧
    (s.ph = .addrW → t = { s with
      world := rest, leOp := .tx (s.dSla ++ 0#1), shift := s.dSla ++ 0#1, done := false }) ∧
    (s.ph = .regAddr → t = { s with world := rest, leOp := .tx s.dReg, shift := s.dReg, done := false }) ∧
    (s.ph = .addrR → t = { s with
      world := rest, leOp := .tx (s.dSla ++ 1#1), shift := s.dSla ++ 1#1, done := false }) ∧
    (s.ph = .dataTx → t = { s with
      world := rest, leOp := .tx (s.buf.read s.idx.toNat), shift := s.buf.read s.idx.toNat, done := false }) ∧
    (s.ph = .dataRx → t = { s with
      world := rest, leOp := .rx (decide (s.idx.toNat + 1 < s.dLen.toNat))
      ackPol := decide (s.idx.toNat + 1 < s.dLen.toNat), done := false }) ∧
    (s.ph = .stopping → t = { s with world := rest, leOp := .stop, done := false }) ∧
    (s.ph = .prim → s.dOp = 2 → t = { s with world := rest, leOp := .start, done := false }) ∧
    (s.ph = .prim → s.dOp = 3 → t = { s with world := rest, leOp := .stop, done := false }) ∧
    (s.ph = .prim → s.dOp = 4 → t = { s with
      world := rest, leOp := .tx s.dByte, shift := s.dByte, done := false }) ∧
    (s.ph = .prim → s.dOp = 7 → t = { s with world := rest, leOp := .rx true, ackPol := true, done := false }) ∧
    (s.ph = .prim → s.dOp = 6 → t = { s with world := rest, leOp := .rx false, ackPol := false, done := false }) ∧
    (s.ph = .enter → s.dLen = 0 → t = { s with world := rest, rc := 0, ph := .idle, busy := false }) ∧
    (s.ph = .enter → s.dLen ≠ 0 → t = { s with world := rest, retry := s.cfg.maxRestarts, ph := .start1 })

/-- R132, the three rows of `START1`. -/
def Obligations.Start1RowsOfTheTable : Prop :=
  ∀ (s : State) (ans : Answer) (rest : List Stimulus), s.ph = .start1 → s.leOp = .start →
    s.cfg.legal = true → s.world = .bus ans :: rest →
    step s = .next { s with
      world := rest, leOp := .none, done := true, hwstat := ans.status
      trace := s.trace ++ [.start (if s.held = true then .repeated else .fresh) ans.status]
      sr := !startOk ans.status, held := startOk ans.status
      retry := if startOk ans.status = true then s.retry else s.retry - 1
      ph := if startOk ans.status = true then .addrW else if s.retry - 1 = 0 then .stopping else .start1
      rcp := if startOk ans.status = true then s.rcp else if s.retry - 1 = 0 then 1 else s.rcp }

/-- R132, the rows of `ADDR_W`, with R126. -/
def Obligations.AddrWRowsOfTheTable : Prop :=
  ∀ (s : State) (b : Byte) (ans : Answer) (rest : List Stimulus), s.ph = .addrW → s.leOp = .tx b →
    s.cfg.legal = true → s.world = .bus ans :: rest →
    ∃ x, step s = .next { s with
      world := rest, leOp := .none, done := true, hwstat := ans.status, shift := x
      trace := s.trace ++ [.tx b ans.status]
      ac := (ackClass ans.status).code
      held := if ans.status = .arbLost then false else s.held
      retry := if ackClass ans.status = .nack then s.retry - 1 else s.retry
      ph := if ackClass ans.status = .ack then .regAddr
        else if ackClass ans.status = .nack ∧ s.retry - 1 ≠ 0 then .start1 else .stopping
      rcp := if ackClass ans.status = .ack then s.rcp
        else if ackClass ans.status = .nack then (if s.retry - 1 = 0 then 2 else s.rcp) else 6 }

/-- R132, the rows of `REGADDR`, with R126: no retry. -/
def Obligations.RegAddrRowsOfTheTable : Prop :=
  ∀ (s : State) (b : Byte) (ans : Answer) (rest : List Stimulus), s.ph = .regAddr → s.leOp = .tx b →
    s.cfg.legal = true → s.world = .bus ans :: rest →
    ∃ x, step s = .next { s with
      world := rest, leOp := .none, done := true, hwstat := ans.status, shift := x
      trace := s.trace ++ [.tx b ans.status]
      ac := (ackClass ans.status).code
      held := if ans.status = .arbLost then false else s.held
      idx := if ackClass ans.status = .ack ∧ s.dDir = false then 0 else s.idx
      ph := if ackClass ans.status = .ack then (if s.dDir = true then .start2 else .dataTx) else .stopping
      rcp := if ackClass ans.status = .ack then s.rcp else if ackClass ans.status = .nack then 3 else 6 }

/-- R132, R129, R138: the rows of `START2` and `ADDR_R`: any failure aborts with code 5 and `RETRY` is neither tested nor
changed. -/
def Obligations.ReadAddressRowsOfTheTable : Prop :=
  ∀ (s : State) (ans : Answer) (rest : List Stimulus), s.cfg.legal = true → s.world = .bus ans :: rest →
    (s.ph = .start2 → s.leOp = .start →
      step s = .next { s with
        world := rest, leOp := .none, done := true, hwstat := ans.status
        trace := s.trace ++ [.start (if s.held = true then .repeated else .fresh) ans.status]
        sr := !startOk ans.status, held := startOk ans.status
        ph := if startOk ans.status = true then .addrR else .stopping
        rcp := if startOk ans.status = true then s.rcp else 5 }) ∧
    (∀ b, s.ph = .addrR → s.leOp = .tx b →
      ∃ x, step s = .next { s with
        world := rest, leOp := .none, done := true, hwstat := ans.status, shift := x
        trace := s.trace ++ [.tx b ans.status]
        ac := (ackClass ans.status).code
        held := if ans.status = .arbLost then false else s.held
        idx := if ackClass ans.status = .ack then 0 else s.idx
        ph := if ackClass ans.status = .ack then .dataRx else .stopping
        rcp := if ackClass ans.status = .ack then s.rcp else 5 })

/-- R132, R128: the rows of `DATA_TX`. -/
def Obligations.DataTxRowsOfTheTable : Prop :=
  ∀ (s : State) (b : Byte) (ans : Answer) (rest : List Stimulus), s.ph = .dataTx → s.leOp = .tx b →
    s.idx.toNat < s.dLen.toNat → s.cfg.legal = true → s.world = .bus ans :: rest →
    ∃ x, step s = .next { s with
      world := rest, leOp := .none, done := true, hwstat := ans.status, shift := x
      trace := s.trace ++ [.tx b ans.status]
      ac := (ackClass ans.status).code
      held := if ans.status = .arbLost then false else s.held
      idx := if ackClass ans.status = .ack then s.idx + 1 else s.idx
      ph := if ackClass ans.status = .ack ∧ s.idx.toNat + 1 ≠ s.dLen.toNat then .dataTx else .stopping
      rcp := if ackClass ans.status = .ack then (if s.idx.toNat + 1 = s.dLen.toNat then 0 else s.rcp)
        else if ackClass ans.status = .nack then 4 else 6 }

/-- R132, R130, R43: the rows of `DATA_RX`: the byte received is stored at `BUF[IDX]` and nowhere else; there is no
failure exit. -/
def Obligations.DataRxRowsOfTheTable : Prop :=
  ∀ (s : State) (a : Bool) (ans : Answer) (rest : List Stimulus), s.ph = .dataRx → s.leOp = .rx a →
    s.buf.wf = true → s.idx.toNat < s.dLen.toNat → s.cfg.legal = true → s.world = .bus ans :: rest →
    ∃ hs m, step s = .next { s with
      world := rest, leOp := .none, done := true, hwstat := hs, shift := ans.byte, data := ans.byte
      trace := s.trace ++ [.rx ans.byte a]
      buf := m
      idx := s.idx + 1
      ph := if s.idx.toNat + 1 = s.dLen.toNat then .stopping else .dataRx
      rcp := if s.idx.toNat + 1 = s.dLen.toNat then 0 else s.rcp } ∧
      m.read s.idx.toNat = ans.byte ∧ (∀ j, j ≠ s.idx.toNat → m.read j = s.buf.read j)

/-- R132, R16, R175: the row of `STOPPING`: when the Stop has completed, `RC <- RCP`, `PH <- IDLE`, `BUSY <- 0` in one
step. -/
def Obligations.StoppingReturnsThePendingCode : Prop :=
  ∀ (s : State) (ans : Answer) (rest : List Stimulus), s.ph = .stopping → s.leOp = .stop →
    s.world = .bus ans :: rest →
    ∃ hs, step s = .next { s with
      world := rest, leOp := .none, done := true, hwstat := hs, held := false
      trace := s.trace ++ [.stop]
      rc := s.rcp, ph := .idle, busy := false }

/-- R136 P6, at the level of phases: once SLA+W has been acknowledged, the next operation is the register-address byte. -/
def Obligations.AddressAckIsFollowedByTheRegisterAddress : Prop :=
  ∀ (s : State) (b : Byte) (ans : Answer) (rest : List Stimulus), s.busy = true → s.ph = .addrW → s.leOp = .tx b →
    ans.status = .txAck → s.world = .bus ans :: .tick :: rest →
    ∃ t, runSteps 2 s = .next t ∧ t.leOp = .tx s.dReg ∧ t.trace = s.trace ++ [.tx b .txAck]

/-- R122, R128: a WRITE whose Start is accepted and whose bytes are all acknowledged sends SLA+W, the register address and
`BUF[0 .. len-1]` in order, issues one Stop and returns 0; the buffer and `DATA` are unchanged. -/
def Obligations.WriteCompletesOnAnAcknowledgingBus : Prop :=
  ∀ (s : State) (sla : SlaveAddr) (len reg : Byte) (a0 st : Answer) (acks : List Answer),
    s.ready = true → s.cfg.legal = true → len ≠ 0 → startOk a0.status = true →
    acks.length = len.toNat + 2 → (∀ a ∈ acks, a.status = .txAck) →
    ∃ t, exec (.write sla len reg) { s with world := promptWorld (a0 :: acks ++ [st]) } = .next t ∧
      t.busy = false ∧ t.ph = .idle ∧ t.rc = 0 ∧ t.retry = s.cfg.maxRestarts ∧ t.idx = len ∧ t.sr = false ∧
      t.ac = 0 ∧ t.held = false ∧ t.data = s.data ∧ t.buf = s.buf ∧
      t.trace = s.trace ++
        [.start (if s.held = true then .repeated else .fresh) a0.status, .tx (sla ++ 0#1) .txAck, .tx reg .txAck] ++
        (List.range len.toNat).map (fun j => .tx (s.buf.read j) .txAck) ++ [.stop]

/-- R123, R130: a READ whose Starts are accepted and whose three bytes are acknowledged sends SLA+W, the register address,
a Repeated Start and SLA+R, receives `len` bytes into `BUF[0 .. len-1]`, all but the last answered ACK, issues one Stop
and returns 0; every other byte of the buffer is unchanged. -/
def Obligations.ReadCompletesOnAnAcknowledgingBus : Prop :=
  ∀ (s : State) (sla : SlaveAddr) (len reg : Byte) (a0 w1 w2 a1 r1 st : Answer) (bytes : List Answer),
    s.ready = true → s.cfg.legal = true → s.buf.wf = true → len ≠ 0 →
    startOk a0.status = true → w1.status = .txAck → w2.status = .txAck → startOk a1.status = true →
    r1.status = .txAck → bytes.length = len.toNat →
    ∃ t, exec (.read sla len reg) { s with world := promptWorld ([a0, w1, w2, a1, r1] ++ bytes ++ [st]) } = .next t ∧
      t.busy = false ∧ t.ph = .idle ∧ t.rc = 0 ∧ t.retry = s.cfg.maxRestarts ∧ t.idx = len ∧ t.sr = false ∧
      t.ac = 0 ∧ t.held = false ∧
      (∀ j (h : j < bytes.length), t.buf.read j = bytes[j].byte) ∧
      (∀ j, len.toNat ≤ j → t.buf.read j = s.buf.read j) ∧
      t.trace = s.trace ++
        [.start (if s.held = true then .repeated else .fresh) a0.status, .tx (sla ++ 0#1) .txAck, .tx reg .txAck,
          .start .repeated a1.status, .tx (sla ++ 1#1) .txAck] ++
        bytes.mapIdx (fun j a => .rx a.byte (decide (j + 1 < len.toNat))) ++ [.stop]

/-- R125, R136 P2: if every Start is accepted and every SLA+W is answered NACK, a WRITE or a READ returns 2 after exactly
`MAX_RESTARTS` Start attempts, as many address bytes, and one Stop. -/
def Obligations.AddressExhaustionTakesExactlyMaxRestartsAttempts : Prop :=
  ∀ (s : State) (i : Instr) (sla : SlaveAddr) (len reg : Byte) (p : Answer × Answer) (ps : List (Answer × Answer))
    (st : Answer), s.ready = true → s.cfg.legal = true → len ≠ 0 →
    (i = .write sla len reg ∨ i = .read sla len reg) → ps.length + 1 = s.cfg.maxRestarts.toNat →
    (∀ q ∈ p :: ps, startOk q.1.status = true ∧ q.2.status = .txNack) →
    ∃ t, exec i { s with world := promptWorld ((p :: ps).flatMap (fun q => [q.1, q.2]) ++ [st]) } = .next t ∧
      t.busy = false ∧ t.rc = 2 ∧ t.retry = 0 ∧ t.held = false ∧ t.buf = s.buf ∧ t.data = s.data ∧ t.idx = s.idx ∧
      t.trace = s.trace ++
        [.start (if s.held = true then .repeated else .fresh) p.1.status, .tx (sla ++ 0#1) .txNack] ++
        ps.flatMap (fun q => [.start .repeated q.1.status, .tx (sla ++ 0#1) .txNack]) ++ [.stop]

/-- R125, R134 (a), (d): `MAX_RESTARTS` failed attempts in a row, each a failed Start (`inl`) or a rejected address
(`inr`), end the command with the code of the last of them, 1 or 2, and `RETRY = 0`. -/
def Obligations.MixedExhaustionReturnsTheLastFailuresCode : Prop :=
  ∀ (s : State) (i : Instr) (sla : SlaveAddr) (len reg : Byte) (fails : List (Answer ⊕ (Answer × Answer)))
    (last : Answer ⊕ (Answer × Answer)) (st : Answer),
    s.ready = true → s.cfg.legal = true → len ≠ 0 → (i = .write sla len reg ∨ i = .read sla len reg) →
    fails.length + 1 = s.cfg.maxRestarts.toNat →
    (∀ x ∈ fails ++ [last], match x with
      | .inl a => startOk a.status = false
      | .inr q => startOk q.1.status = true ∧ q.2.status = .txNack) →
    ∃ t es, exec i { s with world := promptWorld ((fails ++ [last]).flatMap (fun x => match x with
        | .inl a => [a]
        | .inr q => [q.1, q.2]) ++ [st]) } = .next t ∧
      t.busy = false ∧ t.retry = 0 ∧ t.rc = (match last with | .inl _ => 1 | .inr _ => 2) ∧
      t.trace = s.trace ++ es ++ [.stop] ∧ startAttempts es = s.cfg.maxRestarts.toNat ∧ stopCount es = 0

/-- R127, R136 P5: in every world, a WRITE or a READ of length greater than 0 that returns, in its `exec` or in any later
step with the host reading registers meanwhile, has issued exactly one Stop, as its last bus operation. -/
def Obligations.StopIsIssuedOnceAndLast : Prop :=
  ∀ (s t : State) (i : Instr) (sla : SlaveAddr) (len reg : Byte), s.ready = true → len ≠ 0 →
    (i = .write sla len reg ∨ i = .read sla len reg) → Reaches i s t → t.busy = false →
    ∃ es, t.trace = s.trace ++ es ++ [.stop] ∧ stopCount es = 0

/-- R136 P3: in every world, after every step of the command up to its return and whether or not it returns, a WRITE has
made at most `MAX_RESTARTS` Start attempts and a READ at most `MAX_RESTARTS + 1`. -/
def Obligations.StartAttemptsAreBounded : Prop :=
  ∀ (s t : State) (sla : SlaveAddr) (len reg : Byte), s.ready = true → s.cfg.legal = true →
    (Reaches (.write sla len reg) s t →
      ∃ es, t.trace = s.trace ++ es ∧ startAttempts es ≤ s.cfg.maxRestarts.toNat) ∧
    (Reaches (.read sla len reg) s t →
      ∃ es, t.trace = s.trace ++ es ∧ startAttempts es ≤ s.cfg.maxRestarts.toNat + 1)

/-- R130, R136 P4: in every world, a READ of length `k ≥ 1` that returns 0, in its `exec` or in any later step, has received
`k - 1` bytes with ACK and then one with NACK. -/
def Obligations.ReadAcknowledgesAllButTheLastByte : Prop :=
  ∀ (s t : State) (sla : SlaveAddr) (len reg : Byte), s.ready = true → s.cfg.legal = true → len ≠ 0 →
    Reaches (.read sla len reg) s t → t.busy = false → t.rc = 0 →
    ∃ es, t.trace = s.trace ++ es ∧ receiveAcks es = List.replicate (len.toNat - 1) true ++ [false]

/-- R170: in every world, the code a composite returns, in its `exec` or in any later step, is one its table row allows: 4
only for a WRITE, 5 only for a READ, never above 6. -/
def Obligations.ResultCodesByCommand : Prop :=
  ∀ (s t : State) (sla : SlaveAddr) (len reg : Byte), s.ready = true → s.cfg.legal = true → t.busy = false →
    (Reaches (.write sla len reg) s t → t.rc ∈ ([0, 1, 2, 3, 4, 6] : List (BitVec 4))) ∧
    (Reaches (.read sla len reg) s t → t.rc ∈ ([0, 1, 2, 3, 5, 6] : List (BitVec 4)))

/-- R122, R123, R43, R53: the frame of the composites, in every world and after every step up to the return. A WRITE leaves
the whole buffer, `DATA` and `ACKPOL` alone; a READ leaves every byte from index `len` on alone, and the whole buffer where
it returns a code other than 0; neither touches `EN`, `DIV` or the parameters; the host's replies grow by its own reads
only. -/
def Obligations.CompositeFrame : Prop :=
  ∀ (s t : State) (sla : SlaveAddr) (len reg : Byte), s.ready = true → s.cfg.legal = true →
    (Reaches (.write sla len reg) s t →
      (∀ j, t.buf.read j = s.buf.read j) ∧ t.data = s.data ∧ t.ackPol = s.ackPol ∧ t.en = s.en ∧ t.div = s.div ∧
        t.cfg = s.cfg ∧ (exec (.write sla len reg) s = .next t → t.replies = s.replies) ∧
        ∃ vs, t.replies = s.replies ++ vs) ∧
    (Reaches (.read sla len reg) s t →
      (∀ j, len.toNat ≤ j → t.buf.read j = s.buf.read j) ∧
        (t.busy = false → t.rc ≠ 0 → ∀ j, t.buf.read j = s.buf.read j) ∧ t.en = s.en ∧ t.div = s.div ∧
        t.cfg = s.cfg ∧ (exec (.read sla len reg) s = .next t → t.replies = s.replies) ∧
        ∃ vs, t.replies = s.replies ++ vs)

/-- R133: the procedures of R122, R123, R125 and the table of R132 agree: for every sequence of environment answers they
produce the same trace, `RC`, `RETRY`, `IDX`, `SR`, `AC`, `DATA`, `HELD` and `BUF`, and hang at the same operation. -/
def Obligations.ProceduresAgreeWithTheTable : Prop :=
  ∀ (s : State) (sla : SlaveAddr) (len reg : Byte) (answers : List Answer), s.ready = true → s.cfg.legal = true →
    (∃ t u, exec (.write sla len reg) { s with world := promptWorld answers } = .next t ∧
      exec (.write sla len reg) { s with world := [] } = .next u ∧ agreesWith t (writeProc answers u) = true) ∧
    (∃ t u, exec (.read sla len reg) { s with world := promptWorld answers } = .next t ∧
      exec (.read sla len reg) { s with world := [] } = .next u ∧ agreesWith t (readProc answers u) = true)

/-- R136 P7: on a quiet bus with the reference slave at address `sla`, `WRITE sla, n, r` and then `READ sla, n, r` return
0 and leave `BUF[0 .. n-1]` as it was before the WRITE, for every `n ≥ 1`. -/
def Obligations.WriteThenReadRoundTrip : Prop :=
  ∀ (s s1 : State) (sl : Slave) (spare : Answer) (len reg : Byte), s.ready = true → s.cfg.legal = true →
    s.buf.wf = true → sl.regs.wf = true → len ≠ 0 → s.world = [] →
    exec (.write sl.address len reg) s = .next s1 →
    ∀ (n : Nat), 2 * len.toNat + 13 ≤ n →
    (duoRun spare n (sl, s1)).2.busy = false ∧ (duoRun spare n (sl, s1)).2.rc = 0 ∧
    ∃ s2, exec (.read sl.address len reg) (duoRun spare n (sl, s1)).2 = .next s2 ∧
      (duoRun spare n ((duoRun spare n (sl, s1)).1, s2)).2.busy = false ∧
      (duoRun spare n ((duoRun spare n (sl, s1)).1, s2)).2.rc = 0 ∧
      ∀ j, j < len.toNat → (duoRun spare n ((duoRun spare n (sl, s1)).1, s2)).2.buf.read j = s.buf.read j

/-! ## The whole machine -/

/-- R46, R182, R197, R132: while a bus operation is in flight the controller has no step, nor has it one in `IDLE` or while
no command runs. That such a turn, a completion with nothing in flight and a step with nothing left in the world answer
the state as it was, but for the stimulus, is the model's choice (log 5): a command waits for ever. -/
def Obligations.WaitingControllerHasNoStep : Prop :=
  ∀ (s : State) (ans : Answer) (rest : List Stimulus),
    (s.leOp ≠ .none ∨ s.ph = .idle ∨ s.busy = false → s.world = .tick :: rest →
      step s = .next { s with world := rest }) ∧
    (s.leOp = .none → s.world = .bus ans :: rest → step s = .next { s with world := rest }) ∧
    (s.world = [] → step s = .next s)

/-- R29, R137, R160, R201: every step, whatever the world does, keeps the invariant of the block. -/
def Obligations.EveryStepKeepsTheInvariant : Prop :=
  ∀ s t : State, s.inv = true → step s = .next t → t.inv = true

/-- R29: the invariant holds right after reset. -/
def Obligations.InvariantHoldsAtReset : Prop := State.reset.inv = true

/-- R190, R191, R192: reset strikes in any state, a command running or not: the decided elements and the trace take their
values, with no Stop and no code, and every element the spec leaves unspecified takes whatever value the reset draws. The
same decided values stand in the state after reset. That the unspecified values are the drawn ones (log 2) and that the
host's replies stay (log 8) is the model's choice. -/
def Obligations.ResetLeavesTheDecidedValues : Prop :=
  (∀ (s : State) (draw : ResetDraw) (rest : List Stimulus), s.world = .reset draw :: rest →
    ∃ m, step s = .next { s with
      world := rest
      en := false, busy := false, ph := .idle, held := false, leOp := .none, trace := []
      div := draw.div, idx := draw.idx, rcp := draw.rcp, retry := draw.retry, dOp := draw.dOp, dDir := draw.dDir
      dSla := draw.dSla, dReg := draw.dReg, dLen := draw.dLen, dByte := draw.dByte, rc := draw.rc, sr := draw.sr
      ac := draw.ac, data := draw.data, done := draw.done, hwstat := draw.hwstat, shift := draw.shift
      ackPol := draw.ackPol, buf := m } ∧
      ∀ j (h : j < draw.bufBytes.length), j < 256 → m.read j = draw.bufBytes[j]) ∧
  State.reset.en = false ∧ State.reset.busy = false ∧ State.reset.ph = .idle ∧ State.reset.held = false ∧
    State.reset.leOp = .none ∧ State.reset.trace = []

/-- R11, R12: `EN` and `DIV` change only at an accepted INIT or at reset. -/
def Obligations.OnlyInitAndResetWriteTheBusHandle : Prop :=
  ∀ s t : State, step s = .next t → noResetNext s = true → t.en ≠ s.en ∨ t.div ≠ s.div →
    ∃ d rest, s.world = .host (.write .word 0x000 (encode (.init d))) :: rest ∧ s.en = false ∧ t.en = true ∧ t.div = d

/-- R17: `RETRY` is loaded in `ENTER` of a composite with `D_LEN > 0`, decremented by 1 on each failed START in `START1` and
on each `Nack` in `ADDR_W`, and kept by every other step but a reset and an accepted command's `exec`, which is such steps
(log 4). -/
def Obligations.RetryChangesOnlyByItsLaw : Prop :=
  ∀ (s t : State), step s = .next t →
    (∀ rest, s.world = .tick :: rest →
      t.retry = if s.busy = true ∧ s.leOp = .none ∧ s.ph = .enter ∧ s.dLen ≠ 0 then s.cfg.maxRestarts else s.retry) ∧
    (∀ ans rest, s.world = .bus ans :: rest →
      t.retry = if s.leOp ≠ .none ∧ ((s.ph = .start1 ∧ t.sr = true) ∨ (s.ph = .addrW ∧ t.ac = 1)) then s.retry - 1
        else s.retry) ∧
    (∀ a rest, s.world = .host a :: rest → (∀ w, a = .write .word 0x000 w → s.busy = true) → t.retry = s.retry) ∧
    (s.world = [] → t.retry = s.retry)

/-- R19, R51: while a command runs nothing writes its latched descriptor but reset. -/
def Obligations.RunningCommandKeepsItsDescriptor : Prop :=
  ∀ s t : State, s.busy = true → noResetNext s = true → step s = .next t →
    t.dOp = s.dOp ∧ t.dDir = s.dDir ∧ t.dSla = s.dSla ∧ t.dReg = s.dReg ∧ t.dLen = s.dLen ∧ t.dByte = s.dByte

/-- R20, R134 (h): a step that is no reset leaves `RC` at most 6 and `AC` at most 4 if they were, and a step of a running
command that changes them writes such values. -/
def Obligations.ResultFieldsStayInTheirRange : Prop :=
  ∀ s t : State, s.inv = true → noResetNext s = true → step s = .next t →
    (t.rc = s.rc ∨ t.rc.toNat ≤ 6) ∧ (t.ac = s.ac ∨ t.ac.toNat ≤ 4)

/-- R26, R16, R127: a composite with `D_LEN > 0` returns only from the document's terminal states, `Stopped` or `Aborted`,
by a Stop that has completed, and with the code that was pending. -/
def Obligations.CompositesReturnFromTerminalStatesOnly : Prop :=
  ∀ s t : State, s.inv = true → s.busy = true → s.ph ≠ .prim → s.dLen ≠ 0 → noResetNext s = true → step s = .next t →
    t.busy = false →
    (documentState s = some .stopped ∨ documentState s = some .aborted) ∧ t.rc = s.rcp ∧
      t.trace = s.trace ++ [.stop] ∧ (documentState s = some .stopped ↔ t.rc = 0)

/-- R162: `DIV` is shown in `CFG` and read by no rule: a command other than INIT and every turn and completion do the same
whatever it holds. -/
def Obligations.DivIsReadByNoRule : Prop :=
  ∀ (s : State) (d : Divisor), cfgImage { s with div := d } = d.setWidth 32 ∧
    (∀ i : Instr, (∀ v, i ≠ .init v) →
      exec i { s with div := d } = mapNext (fun t => { t with div := d }) (exec i s)) ∧
    ((∃ rest, s.world = .tick :: rest) ∨ (∃ ans rest, s.world = .bus ans :: rest) →
      step { s with div := d } = mapNext (fun t => { t with div := d }) (step s))

/-- R18: `HELD` has one use, the label Fresh or Repeated: but for `HELD` and those labels, a command, and every turn and
completion of a command that is already running, does the same whatever it holds. -/
def Obligations.HeldOnlyLabelsStarts : Prop :=
  ∀ (s : State) (h : Bool),
    (∀ i : Instr, mapNext State.forgetHeld (exec i { s with held := h }) = mapNext State.forgetHeld (exec i s)) ∧
    ((∃ rest, s.world = .tick :: rest) ∨ (∃ ans rest, s.world = .bus ans :: rest) →
      mapNext State.forgetHeld (step { s with held := h }) = mapNext State.forgetHeld (step s))

/-- `HWSTAT` after a Stop and `SHIFT` after a sent byte are read by no rule (R85 (b), R102 (e)). Of `DONE` and of
`ACKPOL`, and of the other two with an operation in flight, it is the model's choice (log 14, with log 5): by R21 and R173
the wait polls `DONE`, and by R21 `ACKPOL` is what the line engine sends; here the wait is that `LE_OP` is not `None`, and
byte and acknowledgement are those `LE_OP` carries. So a command, and every step whatever comes next, does the same
whatever the four hold, but for the four themselves. -/
def Obligations.LineLatchesAreNotReadAfterwards : Prop :=
  ∀ (s : State) (hs : HwStatus) (b : Byte) (d a : Bool),
    (∀ i : Instr, mapNext State.forgetLatches (exec i { s with hwstat := hs, shift := b, done := d, ackPol := a }) =
      mapNext State.forgetLatches (exec i s)) ∧
    mapNext State.forgetLatches (step { s with hwstat := hs, shift := b, done := d, ackPol := a }) =
      mapNext State.forgetLatches (step s)

/-! ## Host programs (30_encoding.md R67, R68) -/

/-- R68: the document's `start()`, `put_byte(b)`, `get_byte_ack()` and `get_byte_nack()` over the script, on an
environment that answers: the call's value is 0 for an accepted Start and 1 else, the class number, the byte. That a second
`cmd` with no `wait` between is `Fault(Reentry)` whatever the world holds is the model's choice (log 16): R67 makes a
`cmd` one write to `CMD`, and here the controller takes no step between two statements, not even the one that ends a
WRITE or READ of length 0. -/
def Obligations.PrimitiveCallsReturnTheirResult : Prop :=
  (∀ (s : State) (i j : Instr) (rest : List Stmt), s.ready = true → (∀ d, i ≠ .init d) →
    playScript (.cmd i :: .cmd j :: rest) s = .fault .reentry) ∧
  ∀ (s : State) (ans : Answer) (rest : List Stimulus) (b : Byte), s.ready = true →
    s.world = .tick :: .bus ans :: rest →
    (∃ t w, playScript Call.start.script s = .next t ∧ t.replies.getLast? = some w ∧
      Call.value w .start = some (if startOk ans.status = true then 0 else 1)) ∧
    (∃ t w, playScript (Call.putByte b).script s = .next t ∧ t.replies.getLast? = some w ∧
      Call.value w (.putByte b) = some (ackClass ans.status).code.toNat) ∧
    (∃ t w, playScript Call.getByteAck.script s = .next t ∧ t.replies.getLast? = some w ∧
      Call.value w .getByteAck = some ans.byte.toNat ∧ t.trace = s.trace ++ [.rx ans.byte true]) ∧
    (∃ t w, playScript Call.getByteNack.script s = .next t ∧ t.replies.getLast? = some w ∧
      Call.value w .getByteNack = some ans.byte.toNat ∧ t.trace = s.trace ++ [.rx ans.byte false])

/-- R68, R42: the `bufw` statements of the call `write(...)` put its bytes at `BUF[0 .. n-1]` and change nothing else. -/
def Obligations.BufferFillStoresTheCallsBytes : Prop :=
  ∀ (s : State) (bytes : List Byte), s.busy = false → s.buf.wf = true → bytes.length ≤ 256 →
    ∃ m, playScript (fillStmts 0 bytes) s = .next { s with buf := m } ∧ m.wf = true ∧
      (∀ j (h : j < bytes.length), m.read j = bytes[j]) ∧
      (∀ j, bytes.length ≤ j → m.read j = s.buf.read j)
end

