-- ==== Sys2Proof/Laws/Config.lean ====
section
/-! SUPPORT. The parameters: this hardware's are legal, the types have the widths they give, and the codes they give. -/

namespace Sys2Proof

@[simp] theorem Config.hardware_bufBytes : Config.hardware.bufBytes = 256 := rfl
@[simp] theorem Config.hardware_slaBits : Config.hardware.slaBits = 7 := rfl
@[simp] theorem Config.hardware_regBits : Config.hardware.regBits = 8 := rfl
@[simp] theorem Config.hardware_lenBits : Config.hardware.lenBits = 8 := rfl
@[simp] theorem Config.hardware_divBits : Config.hardware.divBits = 16 := rfl

theorem Config.hardware_legal : Config.hardware.legal = true := by decide

/-- The types of Word.lean have the widths R5 gives. -/
theorem Config.hardware_widths : SlaveAddr = BitVec Config.hardware.slaBits ∧ Byte = BitVec Config.hardware.regBits ∧
    Byte = BitVec Config.hardware.lenBits ∧ Divisor = BitVec Config.hardware.divBits := ⟨rfl, rfl, rfl, rfl⟩

/-- A legal configuration is this hardware's but for its retry bound. -/
theorem Config.legal_iff (c : Config) :
    c.legal = true ↔ c.maxRestarts ≠ 0 ∧ c = { Config.hardware with maxRestarts := c.maxRestarts } := by
  cases c
  simp [Config.legal, and_assoc]

theorem Config.maxRestarts_pos {c : Config} (h : c.legal = true) : 0 < c.maxRestarts.toNat := by
  have h0 := ((Config.legal_iff c).mp h).1
  rcases Nat.eq_zero_or_pos c.maxRestarts.toNat with hz | hz
  · exact absurd (BitVec.eq_of_toNat_eq (by simpa using hz)) h0
  · exact hz

namespace Machine

/-- The numbers of the codes under a legal configuration (R170). -/
theorem ResultCode.code_of_legal {c : Config} (h : c.legal = true) (r : ResultCode) :
    r.code c = match r with
      | .ok => 0
      | .startFailed => 1
      | .addrFailed => 2
      | .regAddrRejected => 3
      | .dataRejected => 4
      | .readAddr => 5
      | .hwFault => 6 := by
  rw [((Config.legal_iff c).mp h).2]
  cases r <;> rfl

theorem ResultCode.code_le_six {c : Config} (h : c.legal = true) (r : ResultCode) : (r.code c).toNat ≤ 6 := by
  rw [ResultCode.code_of_legal h]
  cases r <;> decide

end Machine

end Sys2Proof
end

