-- ==== Sys2Proof/Laws/Memory.lean ====
section
/-! SUPPORT. The buffer: read after write, and every operation keeps the canonical form. -/

namespace Sys2Proof.Machine

@[simp] theorem Memory.read_nil (i : Nat) : Memory.read [] i = unlistedByte := rfl

@[simp] theorem Memory.read_cons (k : Nat) (v : Byte) (m : Memory) (i : Nat) :
    Memory.read ((k, v) :: m) i = if k = i then v else Memory.read m i := rfl

theorem Memory.wfFrom_cons {lo k : Nat} {v : Byte} {m : Memory} :
    Memory.wfFrom lo ((k, v) :: m) = true ↔
      lo ≤ k ∧ k < 256 ∧ v ≠ unlistedByte ∧ Memory.wfFrom (k + 1) m = true := by
  simp [Memory.wfFrom, and_assoc]

theorem Memory.wfFrom_mono {m : Memory} {lo lo' : Nat} (hle : lo ≤ lo') (h : Memory.wfFrom lo' m = true) :
    Memory.wfFrom lo m = true := by
  cases m with
  | nil => rfl
  | cons c m =>
    obtain ⟨k, v⟩ := c
    rw [Memory.wfFrom_cons] at h ⊢
    exact ⟨hle.trans h.1, h.2⟩

/-- Below its first index a canonical buffer lists nothing. -/
theorem Memory.read_below {m : Memory} {lo i : Nat} (h : Memory.wfFrom lo m = true) (hi : i < lo) :
    Memory.read m i = unlistedByte := by
  induction m generalizing lo with
  | nil => rfl
  | cons c m ih =>
    obtain ⟨k, v⟩ := c
    rw [Memory.wfFrom_cons] at h
    rw [Memory.read_cons, if_neg (by omega)]
    exact ih h.2.2.2 (by omega)

/-- A write leaves every other byte alone. -/
theorem Memory.read_write_ne (m : Memory) {i j : Nat} (v : Byte) (hij : j ≠ i) :
    (Memory.write m i v).read j = m.read j := by
  induction m with
  | nil => by_cases hv : v = unlistedByte <;> simp [Memory.write, hv, hij.symm]
  | cons c m ih =>
    obtain ⟨k, x⟩ := c
    simp only [Memory.write]
    split_ifs with h1 h2 h3 h4
    · rfl
    · simp [hij.symm]
    · subst h3; simp [hij.symm]
    · subst h3; simp [hij.symm]
    · simp [ih]

/-- What is written is what is read. -/
theorem Memory.read_write_eq {m : Memory} {lo i : Nat} (v : Byte) (h : Memory.wfFrom lo m = true) :
    (Memory.write m i v).read i = v := by
  induction m generalizing lo with
  | nil => by_cases hv : v = unlistedByte <;> simp [Memory.write, hv]
  | cons c m ih =>
    obtain ⟨k, x⟩ := c
    rw [Memory.wfFrom_cons] at h
    simp only [Memory.write]
    split_ifs with h1 h2 h3 h4
    · rw [Memory.read_cons, if_neg (by omega), Memory.read_below h.2.2.2 (by omega), h2]
    · simp
    · rw [Memory.read_below h.2.2.2 (by omega), h4]
    · simp
    · rw [Memory.read_cons, if_neg (by omega)]; exact ih h.2.2.2

theorem Memory.read_write {m : Memory} (i j : Nat) (v : Byte) (h : m.wf = true) :
    (Memory.write m i v).read j = if j = i then v else m.read j := by
  split_ifs with hij
  · subst hij; exact Memory.read_write_eq v h
  · exact Memory.read_write_ne m v hij

theorem Memory.wfFrom_write {m : Memory} {lo i : Nat} (v : Byte) (h : Memory.wfFrom lo m = true) (hlo : lo ≤ i)
    (hi : i < 256) : Memory.wfFrom lo (Memory.write m i v) = true := by
  induction m generalizing lo with
  | nil =>
    by_cases hv : v = unlistedByte
    · simp [Memory.write, hv, Memory.wfFrom]
    · simp only [Memory.write, hv, if_false]
      exact Memory.wfFrom_cons.mpr ⟨hlo, hi, hv, rfl⟩
  | cons c m ih =>
    obtain ⟨k, x⟩ := c
    have h' := Memory.wfFrom_cons.mp h
    simp only [Memory.write]
    split_ifs with h1 h2 h3 h4
    · exact h
    · exact Memory.wfFrom_cons.mpr ⟨hlo, hi, h2, Memory.wfFrom_cons.mpr ⟨h1, h'.2⟩⟩
    · exact Memory.wfFrom_mono (by omega) h'.2.2.2
    · exact Memory.wfFrom_cons.mpr ⟨hlo, hi, h4, h3 ▸ h'.2.2.2⟩
    · exact Memory.wfFrom_cons.mpr ⟨h'.1, h'.2.1, h'.2.2.1, ih h'.2.2.2 (by omega)⟩

/-- A write keeps the canonical form. -/
theorem Memory.wf_write {m : Memory} {i : Nat} (v : Byte) (h : m.wf = true) (hi : i < 256) :
    (Memory.write m i v).wf = true :=
  Memory.wfFrom_write v h (Nat.zero_le i) hi

/-- Filling keeps the canonical form. -/
theorem Memory.wf_fill (bytes : List Byte) (i : Nat) {m : Memory} (h : m.wf = true) :
    (Memory.fill i bytes m).wf = true := by
  induction bytes generalizing i m with
  | nil => exact h
  | cons b bs ih =>
    simp only [Memory.fill]
    split_ifs with hi
    · exact ih (i + 1) (Memory.wf_write b h hi)
    · exact h

/-- What a filled buffer reads as. -/
theorem Memory.read_fill (bytes : List Byte) (i j : Nat) {m : Memory} (h : m.wf = true) :
    (Memory.fill i bytes m).read j =
      if hj : i ≤ j ∧ j < 256 ∧ j - i < bytes.length then bytes[j - i]'hj.2.2 else m.read j := by
  induction bytes generalizing i m with
  | nil => simp [Memory.fill]
  | cons b bs ih =>
    simp only [Memory.fill]
    by_cases hi : i < 256
    · rw [if_pos hi, ih (i + 1) (Memory.wf_write b h hi)]
      by_cases hj : i + 1 ≤ j ∧ j < 256 ∧ j - (i + 1) < bs.length
      · rw [dif_pos hj, dif_pos ⟨by omega, hj.2.1, by simp; omega⟩]
        have : j - i = (j - (i + 1)) + 1 := by omega
        simp only [this, List.getElem_cons_succ]
      · rw [dif_neg hj, Memory.read_write i j b h]
        by_cases hij : j = i
        · subst hij; simp [hi]
        · rw [if_neg hij, dif_neg]
          simp only [List.length_cons]; omega
    · rw [if_neg hi, dif_neg (by omega)]

@[simp] theorem Memory.wf_nil : Memory.wf [] = true := rfl

end Sys2Proof.Machine
end

