-- ==== Sys2Proof/Laws/State.lean ====
section
/-! SUPPORT. One lemma per field per named update of the state, each true by rfl. -/

namespace Sys2Proof.Machine

variable (s : State)

/-! ### State.emit -/

@[simp] theorem State.emit_en (e : Event) : (s.emit e).en = s.en := rfl
@[simp] theorem State.emit_div (e : Event) : (s.emit e).div = s.div := rfl
@[simp] theorem State.emit_busy (e : Event) : (s.emit e).busy = s.busy := rfl
@[simp] theorem State.emit_ph (e : Event) : (s.emit e).ph = s.ph := rfl
@[simp] theorem State.emit_idx (e : Event) : (s.emit e).idx = s.idx := rfl
@[simp] theorem State.emit_rcp (e : Event) : (s.emit e).rcp = s.rcp := rfl
@[simp] theorem State.emit_retry (e : Event) : (s.emit e).retry = s.retry := rfl
@[simp] theorem State.emit_held (e : Event) : (s.emit e).held = s.held := rfl
@[simp] theorem State.emit_dOp (e : Event) : (s.emit e).dOp = s.dOp := rfl
@[simp] theorem State.emit_dDir (e : Event) : (s.emit e).dDir = s.dDir := rfl
@[simp] theorem State.emit_dSla (e : Event) : (s.emit e).dSla = s.dSla := rfl
@[simp] theorem State.emit_dReg (e : Event) : (s.emit e).dReg = s.dReg := rfl
@[simp] theorem State.emit_dLen (e : Event) : (s.emit e).dLen = s.dLen := rfl
@[simp] theorem State.emit_dByte (e : Event) : (s.emit e).dByte = s.dByte := rfl
@[simp] theorem State.emit_rc (e : Event) : (s.emit e).rc = s.rc := rfl
@[simp] theorem State.emit_sr (e : Event) : (s.emit e).sr = s.sr := rfl
@[simp] theorem State.emit_ac (e : Event) : (s.emit e).ac = s.ac := rfl
@[simp] theorem State.emit_data (e : Event) : (s.emit e).data = s.data := rfl
@[simp] theorem State.emit_leOp (e : Event) : (s.emit e).leOp = s.leOp := rfl
@[simp] theorem State.emit_done (e : Event) : (s.emit e).done = s.done := rfl
@[simp] theorem State.emit_hwstat (e : Event) : (s.emit e).hwstat = s.hwstat := rfl
@[simp] theorem State.emit_shift (e : Event) : (s.emit e).shift = s.shift := rfl
@[simp] theorem State.emit_ackPol (e : Event) : (s.emit e).ackPol = s.ackPol := rfl
@[simp] theorem State.emit_buf (e : Event) : (s.emit e).buf = s.buf := rfl
@[simp] theorem State.emit_trace (e : Event) : (s.emit e).trace = s.trace ++ [e] := rfl
@[simp] theorem State.emit_replies (e : Event) : (s.emit e).replies = s.replies := rfl
@[simp] theorem State.emit_cfg (e : Event) : (s.emit e).cfg = s.cfg := rfl
@[simp] theorem State.emit_world (e : Event) : (s.emit e).world = s.world := rfl

/-! ### State.reply -/

@[simp] theorem State.reply_en (v : Word) : (s.reply v).en = s.en := rfl
@[simp] theorem State.reply_div (v : Word) : (s.reply v).div = s.div := rfl
@[simp] theorem State.reply_busy (v : Word) : (s.reply v).busy = s.busy := rfl
@[simp] theorem State.reply_ph (v : Word) : (s.reply v).ph = s.ph := rfl
@[simp] theorem State.reply_idx (v : Word) : (s.reply v).idx = s.idx := rfl
@[simp] theorem State.reply_rcp (v : Word) : (s.reply v).rcp = s.rcp := rfl
@[simp] theorem State.reply_retry (v : Word) : (s.reply v).retry = s.retry := rfl
@[simp] theorem State.reply_held (v : Word) : (s.reply v).held = s.held := rfl
@[simp] theorem State.reply_dOp (v : Word) : (s.reply v).dOp = s.dOp := rfl
@[simp] theorem State.reply_dDir (v : Word) : (s.reply v).dDir = s.dDir := rfl
@[simp] theorem State.reply_dSla (v : Word) : (s.reply v).dSla = s.dSla := rfl
@[simp] theorem State.reply_dReg (v : Word) : (s.reply v).dReg = s.dReg := rfl
@[simp] theorem State.reply_dLen (v : Word) : (s.reply v).dLen = s.dLen := rfl
@[simp] theorem State.reply_dByte (v : Word) : (s.reply v).dByte = s.dByte := rfl
@[simp] theorem State.reply_rc (v : Word) : (s.reply v).rc = s.rc := rfl
@[simp] theorem State.reply_sr (v : Word) : (s.reply v).sr = s.sr := rfl
@[simp] theorem State.reply_ac (v : Word) : (s.reply v).ac = s.ac := rfl
@[simp] theorem State.reply_data (v : Word) : (s.reply v).data = s.data := rfl
@[simp] theorem State.reply_leOp (v : Word) : (s.reply v).leOp = s.leOp := rfl
@[simp] theorem State.reply_done (v : Word) : (s.reply v).done = s.done := rfl
@[simp] theorem State.reply_hwstat (v : Word) : (s.reply v).hwstat = s.hwstat := rfl
@[simp] theorem State.reply_shift (v : Word) : (s.reply v).shift = s.shift := rfl
@[simp] theorem State.reply_ackPol (v : Word) : (s.reply v).ackPol = s.ackPol := rfl
@[simp] theorem State.reply_buf (v : Word) : (s.reply v).buf = s.buf := rfl
@[simp] theorem State.reply_trace (v : Word) : (s.reply v).trace = s.trace := rfl
@[simp] theorem State.reply_replies (v : Word) : (s.reply v).replies = s.replies ++ [v] := rfl
@[simp] theorem State.reply_cfg (v : Word) : (s.reply v).cfg = s.cfg := rfl
@[simp] theorem State.reply_world (v : Word) : (s.reply v).world = s.world := rfl

/-! ### State.issue -/

@[simp] theorem State.issue_en (op : LineOp) : (s.issue op).en = s.en := rfl
@[simp] theorem State.issue_div (op : LineOp) : (s.issue op).div = s.div := rfl
@[simp] theorem State.issue_busy (op : LineOp) : (s.issue op).busy = s.busy := rfl
@[simp] theorem State.issue_ph (op : LineOp) : (s.issue op).ph = s.ph := rfl
@[simp] theorem State.issue_idx (op : LineOp) : (s.issue op).idx = s.idx := rfl
@[simp] theorem State.issue_rcp (op : LineOp) : (s.issue op).rcp = s.rcp := rfl
@[simp] theorem State.issue_retry (op : LineOp) : (s.issue op).retry = s.retry := rfl
@[simp] theorem State.issue_held (op : LineOp) : (s.issue op).held = s.held := rfl
@[simp] theorem State.issue_dOp (op : LineOp) : (s.issue op).dOp = s.dOp := rfl
@[simp] theorem State.issue_dDir (op : LineOp) : (s.issue op).dDir = s.dDir := rfl
@[simp] theorem State.issue_dSla (op : LineOp) : (s.issue op).dSla = s.dSla := rfl
@[simp] theorem State.issue_dReg (op : LineOp) : (s.issue op).dReg = s.dReg := rfl
@[simp] theorem State.issue_dLen (op : LineOp) : (s.issue op).dLen = s.dLen := rfl
@[simp] theorem State.issue_dByte (op : LineOp) : (s.issue op).dByte = s.dByte := rfl
@[simp] theorem State.issue_rc (op : LineOp) : (s.issue op).rc = s.rc := rfl
@[simp] theorem State.issue_sr (op : LineOp) : (s.issue op).sr = s.sr := rfl
@[simp] theorem State.issue_ac (op : LineOp) : (s.issue op).ac = s.ac := rfl
@[simp] theorem State.issue_data (op : LineOp) : (s.issue op).data = s.data := rfl
@[simp] theorem State.issue_leOp (op : LineOp) : (s.issue op).leOp = op := rfl
@[simp] theorem State.issue_done (op : LineOp) : (s.issue op).done = false := rfl
@[simp] theorem State.issue_hwstat (op : LineOp) : (s.issue op).hwstat = s.hwstat := rfl
@[simp] theorem State.issue_shift (op : LineOp) : (s.issue op).shift = s.shift := rfl
@[simp] theorem State.issue_ackPol (op : LineOp) : (s.issue op).ackPol = s.ackPol := rfl
@[simp] theorem State.issue_buf (op : LineOp) : (s.issue op).buf = s.buf := rfl
@[simp] theorem State.issue_trace (op : LineOp) : (s.issue op).trace = s.trace := rfl
@[simp] theorem State.issue_replies (op : LineOp) : (s.issue op).replies = s.replies := rfl
@[simp] theorem State.issue_cfg (op : LineOp) : (s.issue op).cfg = s.cfg := rfl
@[simp] theorem State.issue_world (op : LineOp) : (s.issue op).world = s.world := rfl

/-! ### State.complete -/

@[simp] theorem State.complete_en (a : Answer) : (s.complete a).en = s.en := rfl
@[simp] theorem State.complete_div (a : Answer) : (s.complete a).div = s.div := rfl
@[simp] theorem State.complete_busy (a : Answer) : (s.complete a).busy = s.busy := rfl
@[simp] theorem State.complete_ph (a : Answer) : (s.complete a).ph = s.ph := rfl
@[simp] theorem State.complete_idx (a : Answer) : (s.complete a).idx = s.idx := rfl
@[simp] theorem State.complete_rcp (a : Answer) : (s.complete a).rcp = s.rcp := rfl
@[simp] theorem State.complete_retry (a : Answer) : (s.complete a).retry = s.retry := rfl
@[simp] theorem State.complete_held (a : Answer) : (s.complete a).held = s.held := rfl
@[simp] theorem State.complete_dOp (a : Answer) : (s.complete a).dOp = s.dOp := rfl
@[simp] theorem State.complete_dDir (a : Answer) : (s.complete a).dDir = s.dDir := rfl
@[simp] theorem State.complete_dSla (a : Answer) : (s.complete a).dSla = s.dSla := rfl
@[simp] theorem State.complete_dReg (a : Answer) : (s.complete a).dReg = s.dReg := rfl
@[simp] theorem State.complete_dLen (a : Answer) : (s.complete a).dLen = s.dLen := rfl
@[simp] theorem State.complete_dByte (a : Answer) : (s.complete a).dByte = s.dByte := rfl
@[simp] theorem State.complete_rc (a : Answer) : (s.complete a).rc = s.rc := rfl
@[simp] theorem State.complete_sr (a : Answer) : (s.complete a).sr = s.sr := rfl
@[simp] theorem State.complete_ac (a : Answer) : (s.complete a).ac = s.ac := rfl
@[simp] theorem State.complete_data (a : Answer) : (s.complete a).data = s.data := rfl
@[simp] theorem State.complete_leOp (a : Answer) : (s.complete a).leOp = .none := rfl
@[simp] theorem State.complete_done (a : Answer) : (s.complete a).done = true := rfl
@[simp] theorem State.complete_hwstat (a : Answer) : (s.complete a).hwstat = a.status := rfl
@[simp] theorem State.complete_shift (a : Answer) : (s.complete a).shift = s.shift := rfl
@[simp] theorem State.complete_ackPol (a : Answer) : (s.complete a).ackPol = s.ackPol := rfl
@[simp] theorem State.complete_buf (a : Answer) : (s.complete a).buf = s.buf := rfl
@[simp] theorem State.complete_trace (a : Answer) : (s.complete a).trace = s.trace := rfl
@[simp] theorem State.complete_replies (a : Answer) : (s.complete a).replies = s.replies := rfl
@[simp] theorem State.complete_cfg (a : Answer) : (s.complete a).cfg = s.cfg := rfl
@[simp] theorem State.complete_world (a : Answer) : (s.complete a).world = s.world := rfl

/-! ### State.loadShift -/

@[simp] theorem State.loadShift_en (a : Answer) : (s.loadShift a).en = s.en := rfl
@[simp] theorem State.loadShift_div (a : Answer) : (s.loadShift a).div = s.div := rfl
@[simp] theorem State.loadShift_busy (a : Answer) : (s.loadShift a).busy = s.busy := rfl
@[simp] theorem State.loadShift_ph (a : Answer) : (s.loadShift a).ph = s.ph := rfl
@[simp] theorem State.loadShift_idx (a : Answer) : (s.loadShift a).idx = s.idx := rfl
@[simp] theorem State.loadShift_rcp (a : Answer) : (s.loadShift a).rcp = s.rcp := rfl
@[simp] theorem State.loadShift_retry (a : Answer) : (s.loadShift a).retry = s.retry := rfl
@[simp] theorem State.loadShift_held (a : Answer) : (s.loadShift a).held = s.held := rfl
@[simp] theorem State.loadShift_dOp (a : Answer) : (s.loadShift a).dOp = s.dOp := rfl
@[simp] theorem State.loadShift_dDir (a : Answer) : (s.loadShift a).dDir = s.dDir := rfl
@[simp] theorem State.loadShift_dSla (a : Answer) : (s.loadShift a).dSla = s.dSla := rfl
@[simp] theorem State.loadShift_dReg (a : Answer) : (s.loadShift a).dReg = s.dReg := rfl
@[simp] theorem State.loadShift_dLen (a : Answer) : (s.loadShift a).dLen = s.dLen := rfl
@[simp] theorem State.loadShift_dByte (a : Answer) : (s.loadShift a).dByte = s.dByte := rfl
@[simp] theorem State.loadShift_rc (a : Answer) : (s.loadShift a).rc = s.rc := rfl
@[simp] theorem State.loadShift_sr (a : Answer) : (s.loadShift a).sr = s.sr := rfl
@[simp] theorem State.loadShift_ac (a : Answer) : (s.loadShift a).ac = s.ac := rfl
@[simp] theorem State.loadShift_data (a : Answer) : (s.loadShift a).data = s.data := rfl
@[simp] theorem State.loadShift_leOp (a : Answer) : (s.loadShift a).leOp = s.leOp := rfl
@[simp] theorem State.loadShift_done (a : Answer) : (s.loadShift a).done = s.done := rfl
@[simp] theorem State.loadShift_hwstat (a : Answer) : (s.loadShift a).hwstat = s.hwstat := rfl
@[simp] theorem State.loadShift_shift (a : Answer) : (s.loadShift a).shift = a.byte := rfl
@[simp] theorem State.loadShift_ackPol (a : Answer) : (s.loadShift a).ackPol = s.ackPol := rfl
@[simp] theorem State.loadShift_buf (a : Answer) : (s.loadShift a).buf = s.buf := rfl
@[simp] theorem State.loadShift_trace (a : Answer) : (s.loadShift a).trace = s.trace := rfl
@[simp] theorem State.loadShift_replies (a : Answer) : (s.loadShift a).replies = s.replies := rfl
@[simp] theorem State.loadShift_cfg (a : Answer) : (s.loadShift a).cfg = s.cfg := rfl
@[simp] theorem State.loadShift_world (a : Answer) : (s.loadShift a).world = s.world := rfl

/-! ### State.latch -/

@[simp] theorem State.latch_en (d : Descriptor) : (s.latch d).en = s.en := rfl
@[simp] theorem State.latch_div (d : Descriptor) : (s.latch d).div = s.div := rfl
@[simp] theorem State.latch_busy (d : Descriptor) : (s.latch d).busy = s.busy := rfl
@[simp] theorem State.latch_ph (d : Descriptor) : (s.latch d).ph = s.ph := rfl
@[simp] theorem State.latch_idx (d : Descriptor) : (s.latch d).idx = s.idx := rfl
@[simp] theorem State.latch_rcp (d : Descriptor) : (s.latch d).rcp = s.rcp := rfl
@[simp] theorem State.latch_retry (d : Descriptor) : (s.latch d).retry = s.retry := rfl
@[simp] theorem State.latch_held (d : Descriptor) : (s.latch d).held = s.held := rfl
@[simp] theorem State.latch_dOp (d : Descriptor) : (s.latch d).dOp = d.op := rfl
@[simp] theorem State.latch_dDir (d : Descriptor) : (s.latch d).dDir = d.dir := rfl
@[simp] theorem State.latch_dSla (d : Descriptor) : (s.latch d).dSla = d.sla := rfl
@[simp] theorem State.latch_dReg (d : Descriptor) : (s.latch d).dReg = d.reg := rfl
@[simp] theorem State.latch_dLen (d : Descriptor) : (s.latch d).dLen = d.len := rfl
@[simp] theorem State.latch_dByte (d : Descriptor) : (s.latch d).dByte = d.byte := rfl
@[simp] theorem State.latch_rc (d : Descriptor) : (s.latch d).rc = s.rc := rfl
@[simp] theorem State.latch_sr (d : Descriptor) : (s.latch d).sr = s.sr := rfl
@[simp] theorem State.latch_ac (d : Descriptor) : (s.latch d).ac = s.ac := rfl
@[simp] theorem State.latch_data (d : Descriptor) : (s.latch d).data = s.data := rfl
@[simp] theorem State.latch_leOp (d : Descriptor) : (s.latch d).leOp = s.leOp := rfl
@[simp] theorem State.latch_done (d : Descriptor) : (s.latch d).done = s.done := rfl
@[simp] theorem State.latch_hwstat (d : Descriptor) : (s.latch d).hwstat = s.hwstat := rfl
@[simp] theorem State.latch_shift (d : Descriptor) : (s.latch d).shift = s.shift := rfl
@[simp] theorem State.latch_ackPol (d : Descriptor) : (s.latch d).ackPol = s.ackPol := rfl
@[simp] theorem State.latch_buf (d : Descriptor) : (s.latch d).buf = s.buf := rfl
@[simp] theorem State.latch_trace (d : Descriptor) : (s.latch d).trace = s.trace := rfl
@[simp] theorem State.latch_replies (d : Descriptor) : (s.latch d).replies = s.replies := rfl
@[simp] theorem State.latch_cfg (d : Descriptor) : (s.latch d).cfg = s.cfg := rfl
@[simp] theorem State.latch_world (d : Descriptor) : (s.latch d).world = s.world := rfl

/-! ### State.decideResult -/

@[simp] theorem State.decideResult_en (c : ResultCode) : (s.decideResult c).en = s.en := rfl
@[simp] theorem State.decideResult_div (c : ResultCode) : (s.decideResult c).div = s.div := rfl
@[simp] theorem State.decideResult_busy (c : ResultCode) : (s.decideResult c).busy = s.busy := rfl
@[simp] theorem State.decideResult_ph (c : ResultCode) : (s.decideResult c).ph = .stopping := rfl
@[simp] theorem State.decideResult_idx (c : ResultCode) : (s.decideResult c).idx = s.idx := rfl
@[simp] theorem State.decideResult_rcp (c : ResultCode) : (s.decideResult c).rcp = c.code s.cfg := rfl
@[simp] theorem State.decideResult_retry (c : ResultCode) : (s.decideResult c).retry = s.retry := rfl
@[simp] theorem State.decideResult_held (c : ResultCode) : (s.decideResult c).held = s.held := rfl
@[simp] theorem State.decideResult_dOp (c : ResultCode) : (s.decideResult c).dOp = s.dOp := rfl
@[simp] theorem State.decideResult_dDir (c : ResultCode) : (s.decideResult c).dDir = s.dDir := rfl
@[simp] theorem State.decideResult_dSla (c : ResultCode) : (s.decideResult c).dSla = s.dSla := rfl
@[simp] theorem State.decideResult_dReg (c : ResultCode) : (s.decideResult c).dReg = s.dReg := rfl
@[simp] theorem State.decideResult_dLen (c : ResultCode) : (s.decideResult c).dLen = s.dLen := rfl
@[simp] theorem State.decideResult_dByte (c : ResultCode) : (s.decideResult c).dByte = s.dByte := rfl
@[simp] theorem State.decideResult_rc (c : ResultCode) : (s.decideResult c).rc = s.rc := rfl
@[simp] theorem State.decideResult_sr (c : ResultCode) : (s.decideResult c).sr = s.sr := rfl
@[simp] theorem State.decideResult_ac (c : ResultCode) : (s.decideResult c).ac = s.ac := rfl
@[simp] theorem State.decideResult_data (c : ResultCode) : (s.decideResult c).data = s.data := rfl
@[simp] theorem State.decideResult_leOp (c : ResultCode) : (s.decideResult c).leOp = s.leOp := rfl
@[simp] theorem State.decideResult_done (c : ResultCode) : (s.decideResult c).done = s.done := rfl
@[simp] theorem State.decideResult_hwstat (c : ResultCode) : (s.decideResult c).hwstat = s.hwstat := rfl
@[simp] theorem State.decideResult_shift (c : ResultCode) : (s.decideResult c).shift = s.shift := rfl
@[simp] theorem State.decideResult_ackPol (c : ResultCode) : (s.decideResult c).ackPol = s.ackPol := rfl
@[simp] theorem State.decideResult_buf (c : ResultCode) : (s.decideResult c).buf = s.buf := rfl
@[simp] theorem State.decideResult_trace (c : ResultCode) : (s.decideResult c).trace = s.trace := rfl
@[simp] theorem State.decideResult_replies (c : ResultCode) : (s.decideResult c).replies = s.replies := rfl
@[simp] theorem State.decideResult_cfg (c : ResultCode) : (s.decideResult c).cfg = s.cfg := rfl
@[simp] theorem State.decideResult_world (c : ResultCode) : (s.decideResult c).world = s.world := rfl

/-! ### State.returnCode -/

@[simp] theorem State.returnCode_en (c : BitVec 4) : (s.returnCode c).en = s.en := rfl
@[simp] theorem State.returnCode_div (c : BitVec 4) : (s.returnCode c).div = s.div := rfl
@[simp] theorem State.returnCode_busy (c : BitVec 4) : (s.returnCode c).busy = false := rfl
@[simp] theorem State.returnCode_ph (c : BitVec 4) : (s.returnCode c).ph = .idle := rfl
@[simp] theorem State.returnCode_idx (c : BitVec 4) : (s.returnCode c).idx = s.idx := rfl
@[simp] theorem State.returnCode_rcp (c : BitVec 4) : (s.returnCode c).rcp = s.rcp := rfl
@[simp] theorem State.returnCode_retry (c : BitVec 4) : (s.returnCode c).retry = s.retry := rfl
@[simp] theorem State.returnCode_held (c : BitVec 4) : (s.returnCode c).held = s.held := rfl
@[simp] theorem State.returnCode_dOp (c : BitVec 4) : (s.returnCode c).dOp = s.dOp := rfl
@[simp] theorem State.returnCode_dDir (c : BitVec 4) : (s.returnCode c).dDir = s.dDir := rfl
@[simp] theorem State.returnCode_dSla (c : BitVec 4) : (s.returnCode c).dSla = s.dSla := rfl
@[simp] theorem State.returnCode_dReg (c : BitVec 4) : (s.returnCode c).dReg = s.dReg := rfl
@[simp] theorem State.returnCode_dLen (c : BitVec 4) : (s.returnCode c).dLen = s.dLen := rfl
@[simp] theorem State.returnCode_dByte (c : BitVec 4) : (s.returnCode c).dByte = s.dByte := rfl
@[simp] theorem State.returnCode_rc (c : BitVec 4) : (s.returnCode c).rc = c := rfl
@[simp] theorem State.returnCode_sr (c : BitVec 4) : (s.returnCode c).sr = s.sr := rfl
@[simp] theorem State.returnCode_ac (c : BitVec 4) : (s.returnCode c).ac = s.ac := rfl
@[simp] theorem State.returnCode_data (c : BitVec 4) : (s.returnCode c).data = s.data := rfl
@[simp] theorem State.returnCode_leOp (c : BitVec 4) : (s.returnCode c).leOp = s.leOp := rfl
@[simp] theorem State.returnCode_done (c : BitVec 4) : (s.returnCode c).done = s.done := rfl
@[simp] theorem State.returnCode_hwstat (c : BitVec 4) : (s.returnCode c).hwstat = s.hwstat := rfl
@[simp] theorem State.returnCode_shift (c : BitVec 4) : (s.returnCode c).shift = s.shift := rfl
@[simp] theorem State.returnCode_ackPol (c : BitVec 4) : (s.returnCode c).ackPol = s.ackPol := rfl
@[simp] theorem State.returnCode_buf (c : BitVec 4) : (s.returnCode c).buf = s.buf := rfl
@[simp] theorem State.returnCode_trace (c : BitVec 4) : (s.returnCode c).trace = s.trace := rfl
@[simp] theorem State.returnCode_replies (c : BitVec 4) : (s.returnCode c).replies = s.replies := rfl
@[simp] theorem State.returnCode_cfg (c : BitVec 4) : (s.returnCode c).cfg = s.cfg := rfl
@[simp] theorem State.returnCode_world (c : BitVec 4) : (s.returnCode c).world = s.world := rfl

/-! ### State.returnPrimitive -/

@[simp] theorem State.returnPrimitive_en : (s.returnPrimitive).en = s.en := rfl
@[simp] theorem State.returnPrimitive_div : (s.returnPrimitive).div = s.div := rfl
@[simp] theorem State.returnPrimitive_busy : (s.returnPrimitive).busy = false := rfl
@[simp] theorem State.returnPrimitive_ph : (s.returnPrimitive).ph = .idle := rfl
@[simp] theorem State.returnPrimitive_idx : (s.returnPrimitive).idx = s.idx := rfl
@[simp] theorem State.returnPrimitive_rcp : (s.returnPrimitive).rcp = s.rcp := rfl
@[simp] theorem State.returnPrimitive_retry : (s.returnPrimitive).retry = s.retry := rfl
@[simp] theorem State.returnPrimitive_held : (s.returnPrimitive).held = s.held := rfl
@[simp] theorem State.returnPrimitive_dOp : (s.returnPrimitive).dOp = s.dOp := rfl
@[simp] theorem State.returnPrimitive_dDir : (s.returnPrimitive).dDir = s.dDir := rfl
@[simp] theorem State.returnPrimitive_dSla : (s.returnPrimitive).dSla = s.dSla := rfl
@[simp] theorem State.returnPrimitive_dReg : (s.returnPrimitive).dReg = s.dReg := rfl
@[simp] theorem State.returnPrimitive_dLen : (s.returnPrimitive).dLen = s.dLen := rfl
@[simp] theorem State.returnPrimitive_dByte : (s.returnPrimitive).dByte = s.dByte := rfl
@[simp] theorem State.returnPrimitive_rc : (s.returnPrimitive).rc = s.rc := rfl
@[simp] theorem State.returnPrimitive_sr : (s.returnPrimitive).sr = s.sr := rfl
@[simp] theorem State.returnPrimitive_ac : (s.returnPrimitive).ac = s.ac := rfl
@[simp] theorem State.returnPrimitive_data : (s.returnPrimitive).data = s.data := rfl
@[simp] theorem State.returnPrimitive_leOp : (s.returnPrimitive).leOp = s.leOp := rfl
@[simp] theorem State.returnPrimitive_done : (s.returnPrimitive).done = s.done := rfl
@[simp] theorem State.returnPrimitive_hwstat : (s.returnPrimitive).hwstat = s.hwstat := rfl
@[simp] theorem State.returnPrimitive_shift : (s.returnPrimitive).shift = s.shift := rfl
@[simp] theorem State.returnPrimitive_ackPol : (s.returnPrimitive).ackPol = s.ackPol := rfl
@[simp] theorem State.returnPrimitive_buf : (s.returnPrimitive).buf = s.buf := rfl
@[simp] theorem State.returnPrimitive_trace : (s.returnPrimitive).trace = s.trace := rfl
@[simp] theorem State.returnPrimitive_replies : (s.returnPrimitive).replies = s.replies := rfl
@[simp] theorem State.returnPrimitive_cfg : (s.returnPrimitive).cfg = s.cfg := rfl
@[simp] theorem State.returnPrimitive_world : (s.returnPrimitive).world = s.world := rfl

/-! ### State.strikeReset: the decided elements and what reset leaves alone -/

@[simp] theorem State.strikeReset_en (d : ResetDraw) : (s.strikeReset d).en = false := rfl
@[simp] theorem State.strikeReset_busy (d : ResetDraw) : (s.strikeReset d).busy = false := rfl
@[simp] theorem State.strikeReset_ph (d : ResetDraw) : (s.strikeReset d).ph = .idle := rfl
@[simp] theorem State.strikeReset_held (d : ResetDraw) : (s.strikeReset d).held = false := rfl
@[simp] theorem State.strikeReset_leOp (d : ResetDraw) : (s.strikeReset d).leOp = .none := rfl
@[simp] theorem State.strikeReset_trace (d : ResetDraw) : (s.strikeReset d).trace = [] := rfl
@[simp] theorem State.strikeReset_replies (d : ResetDraw) : (s.strikeReset d).replies = s.replies := rfl
@[simp] theorem State.strikeReset_cfg (d : ResetDraw) : (s.strikeReset d).cfg = s.cfg := rfl
@[simp] theorem State.strikeReset_world (d : ResetDraw) : (s.strikeReset d).world = s.world := rfl
@[simp] theorem State.strikeReset_buf (d : ResetDraw) : (s.strikeReset d).buf = Memory.fill 0 d.bufBytes [] := rfl

end Sys2Proof.Machine
end

