-- ==== Sys2Proof/Laws/Controller.lean ====
section
/-! SUPPORT. What the controller can do: frames of its turns, of completions and of their runs, and the ways to run it. -/

namespace Sys2Proof.Machine

variable (s : State)

/-! ### What the sequencer leaves alone after a procedure -/

@[simp] theorem retryOrGiveUp_en (c : ResultCode) : (retryOrGiveUp c s).en = s.en := by
  unfold retryOrGiveUp; split <;> rfl

@[simp] theorem retryOrGiveUp_div (c : ResultCode) : (retryOrGiveUp c s).div = s.div := by
  unfold retryOrGiveUp; split <;> rfl

@[simp] theorem retryOrGiveUp_held (c : ResultCode) : (retryOrGiveUp c s).held = s.held := by
  unfold retryOrGiveUp; split <;> rfl

@[simp] theorem retryOrGiveUp_dOp (c : ResultCode) : (retryOrGiveUp c s).dOp = s.dOp := by
  unfold retryOrGiveUp; split <;> rfl

@[simp] theorem retryOrGiveUp_dDir (c : ResultCode) : (retryOrGiveUp c s).dDir = s.dDir := by
  unfold retryOrGiveUp; split <;> rfl

@[simp] theorem retryOrGiveUp_dSla (c : ResultCode) : (retryOrGiveUp c s).dSla = s.dSla := by
  unfold retryOrGiveUp; split <;> rfl

@[simp] theorem retryOrGiveUp_dReg (c : ResultCode) : (retryOrGiveUp c s).dReg = s.dReg := by
  unfold retryOrGiveUp; split <;> rfl

@[simp] theorem retryOrGiveUp_dLen (c : ResultCode) : (retryOrGiveUp c s).dLen = s.dLen := by
  unfold retryOrGiveUp; split <;> rfl

@[simp] theorem retryOrGiveUp_dByte (c : ResultCode) : (retryOrGiveUp c s).dByte = s.dByte := by
  unfold retryOrGiveUp; split <;> rfl

@[simp] theorem retryOrGiveUp_sr (c : ResultCode) : (retryOrGiveUp c s).sr = s.sr := by
  unfold retryOrGiveUp; split <;> rfl

@[simp] theorem retryOrGiveUp_ac (c : ResultCode) : (retryOrGiveUp c s).ac = s.ac := by
  unfold retryOrGiveUp; split <;> rfl

@[simp] theorem retryOrGiveUp_data (c : ResultCode) : (retryOrGiveUp c s).data = s.data := by
  unfold retryOrGiveUp; split <;> rfl

@[simp] theorem retryOrGiveUp_leOp (c : ResultCode) : (retryOrGiveUp c s).leOp = s.leOp := by
  unfold retryOrGiveUp; split <;> rfl

@[simp] theorem retryOrGiveUp_done (c : ResultCode) : (retryOrGiveUp c s).done = s.done := by
  unfold retryOrGiveUp; split <;> rfl

@[simp] theorem retryOrGiveUp_hwstat (c : ResultCode) : (retryOrGiveUp c s).hwstat = s.hwstat := by
  unfold retryOrGiveUp; split <;> rfl

@[simp] theorem retryOrGiveUp_shift (c : ResultCode) : (retryOrGiveUp c s).shift = s.shift := by
  unfold retryOrGiveUp; split <;> rfl

@[simp] theorem retryOrGiveUp_ackPol (c : ResultCode) : (retryOrGiveUp c s).ackPol = s.ackPol := by
  unfold retryOrGiveUp; split <;> rfl

@[simp] theorem retryOrGiveUp_trace (c : ResultCode) : (retryOrGiveUp c s).trace = s.trace := by
  unfold retryOrGiveUp; split <;> rfl

@[simp] theorem retryOrGiveUp_replies (c : ResultCode) : (retryOrGiveUp c s).replies = s.replies := by
  unfold retryOrGiveUp; split <;> rfl

@[simp] theorem retryOrGiveUp_cfg (c : ResultCode) : (retryOrGiveUp c s).cfg = s.cfg := by
  unfold retryOrGiveUp; split <;> rfl

@[simp] theorem retryOrGiveUp_world (c : ResultCode) : (retryOrGiveUp c s).world = s.world := by
  unfold retryOrGiveUp; split <;> rfl

@[simp] theorem afterOperation_en : (afterOperation s).en = s.en := by
  unfold afterOperation afterStart1 afterAddrW afterRegAddr afterStart2 afterAddrR afterDataTx afterDataRx storeData
  repeat' split
  all_goals simp

@[simp] theorem afterOperation_div : (afterOperation s).div = s.div := by
  unfold afterOperation afterStart1 afterAddrW afterRegAddr afterStart2 afterAddrR afterDataTx afterDataRx storeData
  repeat' split
  all_goals simp

@[simp] theorem afterOperation_held : (afterOperation s).held = s.held := by
  unfold afterOperation afterStart1 afterAddrW afterRegAddr afterStart2 afterAddrR afterDataTx afterDataRx storeData
  repeat' split
  all_goals simp

@[simp] theorem afterOperation_dOp : (afterOperation s).dOp = s.dOp := by
  unfold afterOperation afterStart1 afterAddrW afterRegAddr afterStart2 afterAddrR afterDataTx afterDataRx storeData
  repeat' split
  all_goals simp

@[simp] theorem afterOperation_dDir : (afterOperation s).dDir = s.dDir := by
  unfold afterOperation afterStart1 afterAddrW afterRegAddr afterStart2 afterAddrR afterDataTx afterDataRx storeData
  repeat' split
  all_goals simp

@[simp] theorem afterOperation_dSla : (afterOperation s).dSla = s.dSla := by
  unfold afterOperation afterStart1 afterAddrW afterRegAddr afterStart2 afterAddrR afterDataTx afterDataRx storeData
  repeat' split
  all_goals simp

@[simp] theorem afterOperation_dReg : (afterOperation s).dReg = s.dReg := by
  unfold afterOperation afterStart1 afterAddrW afterRegAddr afterStart2 afterAddrR afterDataTx afterDataRx storeData
  repeat' split
  all_goals simp

@[simp] theorem afterOperation_dLen : (afterOperation s).dLen = s.dLen := by
  unfold afterOperation afterStart1 afterAddrW afterRegAddr afterStart2 afterAddrR afterDataTx afterDataRx storeData
  repeat' split
  all_goals simp

@[simp] theorem afterOperation_dByte : (afterOperation s).dByte = s.dByte := by
  unfold afterOperation afterStart1 afterAddrW afterRegAddr afterStart2 afterAddrR afterDataTx afterDataRx storeData
  repeat' split
  all_goals simp

@[simp] theorem afterOperation_sr : (afterOperation s).sr = s.sr := by
  unfold afterOperation afterStart1 afterAddrW afterRegAddr afterStart2 afterAddrR afterDataTx afterDataRx storeData
  repeat' split
  all_goals simp

@[simp] theorem afterOperation_ac : (afterOperation s).ac = s.ac := by
  unfold afterOperation afterStart1 afterAddrW afterRegAddr afterStart2 afterAddrR afterDataTx afterDataRx storeData
  repeat' split
  all_goals simp

@[simp] theorem afterOperation_data : (afterOperation s).data = s.data := by
  unfold afterOperation afterStart1 afterAddrW afterRegAddr afterStart2 afterAddrR afterDataTx afterDataRx storeData
  repeat' split
  all_goals simp

@[simp] theorem afterOperation_leOp : (afterOperation s).leOp = s.leOp := by
  unfold afterOperation afterStart1 afterAddrW afterRegAddr afterStart2 afterAddrR afterDataTx afterDataRx storeData
  repeat' split
  all_goals simp

@[simp] theorem afterOperation_done : (afterOperation s).done = s.done := by
  unfold afterOperation afterStart1 afterAddrW afterRegAddr afterStart2 afterAddrR afterDataTx afterDataRx storeData
  repeat' split
  all_goals simp

@[simp] theorem afterOperation_hwstat : (afterOperation s).hwstat = s.hwstat := by
  unfold afterOperation afterStart1 afterAddrW afterRegAddr afterStart2 afterAddrR afterDataTx afterDataRx storeData
  repeat' split
  all_goals simp

@[simp] theorem afterOperation_shift : (afterOperation s).shift = s.shift := by
  unfold afterOperation afterStart1 afterAddrW afterRegAddr afterStart2 afterAddrR afterDataTx afterDataRx storeData
  repeat' split
  all_goals simp

@[simp] theorem afterOperation_ackPol : (afterOperation s).ackPol = s.ackPol := by
  unfold afterOperation afterStart1 afterAddrW afterRegAddr afterStart2 afterAddrR afterDataTx afterDataRx storeData
  repeat' split
  all_goals simp

@[simp] theorem afterOperation_trace : (afterOperation s).trace = s.trace := by
  unfold afterOperation afterStart1 afterAddrW afterRegAddr afterStart2 afterAddrR afterDataTx afterDataRx storeData
  repeat' split
  all_goals simp

@[simp] theorem afterOperation_replies : (afterOperation s).replies = s.replies := by
  unfold afterOperation afterStart1 afterAddrW afterRegAddr afterStart2 afterAddrR afterDataTx afterDataRx storeData
  repeat' split
  all_goals simp

@[simp] theorem afterOperation_cfg : (afterOperation s).cfg = s.cfg := by
  unfold afterOperation afterStart1 afterAddrW afterRegAddr afterStart2 afterAddrR afterDataTx afterDataRx storeData
  repeat' split
  all_goals simp

@[simp] theorem afterOperation_world : (afterOperation s).world = s.world := by
  unfold afterOperation afterStart1 afterAddrW afterRegAddr afterStart2 afterAddrR afterDataTx afterDataRx storeData
  repeat' split
  all_goals simp

/-! ### What a turn of the controller leaves alone -/

@[simp] theorem controllerTurn_en : (controllerTurn s).en = s.en := by
  unfold controllerTurn phaseTurn enterTurn primitiveTurn startIssue stopIssue putIssue getIssue
  repeat' split
  all_goals simp

@[simp] theorem controllerTurn_div : (controllerTurn s).div = s.div := by
  unfold controllerTurn phaseTurn enterTurn primitiveTurn startIssue stopIssue putIssue getIssue
  repeat' split
  all_goals simp

@[simp] theorem controllerTurn_held : (controllerTurn s).held = s.held := by
  unfold controllerTurn phaseTurn enterTurn primitiveTurn startIssue stopIssue putIssue getIssue
  repeat' split
  all_goals simp

@[simp] theorem controllerTurn_dOp : (controllerTurn s).dOp = s.dOp := by
  unfold controllerTurn phaseTurn enterTurn primitiveTurn startIssue stopIssue putIssue getIssue
  repeat' split
  all_goals simp

@[simp] theorem controllerTurn_dDir : (controllerTurn s).dDir = s.dDir := by
  unfold controllerTurn phaseTurn enterTurn primitiveTurn startIssue stopIssue putIssue getIssue
  repeat' split
  all_goals simp

@[simp] theorem controllerTurn_dSla : (controllerTurn s).dSla = s.dSla := by
  unfold controllerTurn phaseTurn enterTurn primitiveTurn startIssue stopIssue putIssue getIssue
  repeat' split
  all_goals simp

@[simp] theorem controllerTurn_dReg : (controllerTurn s).dReg = s.dReg := by
  unfold controllerTurn phaseTurn enterTurn primitiveTurn startIssue stopIssue putIssue getIssue
  repeat' split
  all_goals simp

@[simp] theorem controllerTurn_dLen : (controllerTurn s).dLen = s.dLen := by
  unfold controllerTurn phaseTurn enterTurn primitiveTurn startIssue stopIssue putIssue getIssue
  repeat' split
  all_goals simp

@[simp] theorem controllerTurn_dByte : (controllerTurn s).dByte = s.dByte := by
  unfold controllerTurn phaseTurn enterTurn primitiveTurn startIssue stopIssue putIssue getIssue
  repeat' split
  all_goals simp

@[simp] theorem controllerTurn_sr : (controllerTurn s).sr = s.sr := by
  unfold controllerTurn phaseTurn enterTurn primitiveTurn startIssue stopIssue putIssue getIssue
  repeat' split
  all_goals simp

@[simp] theorem controllerTurn_ac : (controllerTurn s).ac = s.ac := by
  unfold controllerTurn phaseTurn enterTurn primitiveTurn startIssue stopIssue putIssue getIssue
  repeat' split
  all_goals simp

@[simp] theorem controllerTurn_data : (controllerTurn s).data = s.data := by
  unfold controllerTurn phaseTurn enterTurn primitiveTurn startIssue stopIssue putIssue getIssue
  repeat' split
  all_goals simp

@[simp] theorem controllerTurn_hwstat : (controllerTurn s).hwstat = s.hwstat := by
  unfold controllerTurn phaseTurn enterTurn primitiveTurn startIssue stopIssue putIssue getIssue
  repeat' split
  all_goals simp

@[simp] theorem controllerTurn_trace : (controllerTurn s).trace = s.trace := by
  unfold controllerTurn phaseTurn enterTurn primitiveTurn startIssue stopIssue putIssue getIssue
  repeat' split
  all_goals simp

@[simp] theorem controllerTurn_replies : (controllerTurn s).replies = s.replies := by
  unfold controllerTurn phaseTurn enterTurn primitiveTurn startIssue stopIssue putIssue getIssue
  repeat' split
  all_goals simp

@[simp] theorem controllerTurn_cfg : (controllerTurn s).cfg = s.cfg := by
  unfold controllerTurn phaseTurn enterTurn primitiveTurn startIssue stopIssue putIssue getIssue
  repeat' split
  all_goals simp

@[simp] theorem controllerTurn_world : (controllerTurn s).world = s.world := by
  unfold controllerTurn phaseTurn enterTurn primitiveTurn startIssue stopIssue putIssue getIssue
  repeat' split
  all_goals simp

@[simp] theorem controllerTurn_idx : (controllerTurn s).idx = s.idx := by
  unfold controllerTurn phaseTurn enterTurn primitiveTurn startIssue stopIssue putIssue getIssue
  repeat' split
  all_goals simp

@[simp] theorem controllerTurn_rcp : (controllerTurn s).rcp = s.rcp := by
  unfold controllerTurn phaseTurn enterTurn primitiveTurn startIssue stopIssue putIssue getIssue
  repeat' split
  all_goals simp

@[simp] theorem controllerTurn_buf : (controllerTurn s).buf = s.buf := by
  unfold controllerTurn phaseTurn enterTurn primitiveTurn startIssue stopIssue putIssue getIssue
  repeat' split
  all_goals simp

/-! ### What a completion leaves alone -/

@[simp] theorem busCompletes_en (a : Answer) : (busCompletes a s).en = s.en := by
  unfold busCompletes; split <;> simp [startDone, stopDone, putDone, getDone]

@[simp] theorem busCompletes_div (a : Answer) : (busCompletes a s).div = s.div := by
  unfold busCompletes; split <;> simp [startDone, stopDone, putDone, getDone]

@[simp] theorem busCompletes_dOp (a : Answer) : (busCompletes a s).dOp = s.dOp := by
  unfold busCompletes; split <;> simp [startDone, stopDone, putDone, getDone]

@[simp] theorem busCompletes_dDir (a : Answer) : (busCompletes a s).dDir = s.dDir := by
  unfold busCompletes; split <;> simp [startDone, stopDone, putDone, getDone]

@[simp] theorem busCompletes_dSla (a : Answer) : (busCompletes a s).dSla = s.dSla := by
  unfold busCompletes; split <;> simp [startDone, stopDone, putDone, getDone]

@[simp] theorem busCompletes_dReg (a : Answer) : (busCompletes a s).dReg = s.dReg := by
  unfold busCompletes; split <;> simp [startDone, stopDone, putDone, getDone]

@[simp] theorem busCompletes_dLen (a : Answer) : (busCompletes a s).dLen = s.dLen := by
  unfold busCompletes; split <;> simp [startDone, stopDone, putDone, getDone]

@[simp] theorem busCompletes_dByte (a : Answer) : (busCompletes a s).dByte = s.dByte := by
  unfold busCompletes; split <;> simp [startDone, stopDone, putDone, getDone]

@[simp] theorem busCompletes_replies (a : Answer) : (busCompletes a s).replies = s.replies := by
  unfold busCompletes; split <;> simp [startDone, stopDone, putDone, getDone]

@[simp] theorem busCompletes_cfg (a : Answer) : (busCompletes a s).cfg = s.cfg := by
  unfold busCompletes; split <;> simp [startDone, stopDone, putDone, getDone]

@[simp] theorem busCompletes_world (a : Answer) : (busCompletes a s).world = s.world := by
  unfold busCompletes; split <;> simp [startDone, stopDone, putDone, getDone]

/-! ### Runs of the controller -/

@[simp] theorem runController_idle (w : List Stimulus) (h : s.busy = false) : runController w s = s := by
  cases w with
  | nil => rfl
  | cons x w => cases x <;> simp [runController, h]

@[simp] theorem runController_nil : runController [] s = s := rfl

theorem runController_tick (w : List Stimulus) (h : s.busy = true) :
    runController (.tick :: w) s = runController w (controllerTurn { s with world := w }) := by
  simp [runController, h]

theorem runController_bus (w : List Stimulus) (a : Answer) (h : s.busy = true) :
    runController (.bus a :: w) s = runController w (busCompletes a { s with world := w }) := by
  simp [runController, h]

@[simp] theorem runController_host (w : List Stimulus) (a : HostAccess) : runController (.host a :: w) s = s := rfl

@[simp] theorem runController_reset (w : List Stimulus) (d : ResetDraw) : runController (.reset d :: w) s = s := rfl

/-- What holds of a state, and is kept by taking a stimulus off the world, by a turn and by a completion while a command
runs, holds after the controller has run. -/
theorem runController_keeps (P : State → Prop) (w : List Stimulus) (s : State) (h : P s)
    (hworld : ∀ u v, P u → P { u with world := v })
    (hturn : ∀ u, u.busy = true → P u → P (controllerTurn u))
    (hbus : ∀ u a, u.busy = true → P u → P (busCompletes a u)) : P (runController w s) := by
  induction w generalizing s with
  | nil => exact h
  | cons x w ih =>
    by_cases hb : s.busy = true
    · cases x with
      | host a => exact h
      | reset d => exact h
      | tick => rw [runController_tick s w hb]; exact ih _ (hturn _ hb (hworld _ _ h))
      | bus a => rw [runController_bus s w a hb]; exact ih _ (hbus _ _ hb (hworld _ _ h))
    · rw [runController_idle s _ (by simpa using hb)]; exact h

@[simp] theorem runController_en (w : List Stimulus) : (runController w s).en = s.en :=
  runController_keeps (fun u => u.en = s.en) w s rfl (fun _ _ h => h) (fun u _ h => by simpa using h)
    (fun u a _ h => by simpa using h)

@[simp] theorem runController_div (w : List Stimulus) : (runController w s).div = s.div :=
  runController_keeps (fun u => u.div = s.div) w s rfl (fun _ _ h => h) (fun u _ h => by simpa using h)
    (fun u a _ h => by simpa using h)

@[simp] theorem runController_dOp (w : List Stimulus) : (runController w s).dOp = s.dOp :=
  runController_keeps (fun u => u.dOp = s.dOp) w s rfl (fun _ _ h => h) (fun u _ h => by simpa using h)
    (fun u a _ h => by simpa using h)

@[simp] theorem runController_dDir (w : List Stimulus) : (runController w s).dDir = s.dDir :=
  runController_keeps (fun u => u.dDir = s.dDir) w s rfl (fun _ _ h => h) (fun u _ h => by simpa using h)
    (fun u a _ h => by simpa using h)

@[simp] theorem runController_dSla (w : List Stimulus) : (runController w s).dSla = s.dSla :=
  runController_keeps (fun u => u.dSla = s.dSla) w s rfl (fun _ _ h => h) (fun u _ h => by simpa using h)
    (fun u a _ h => by simpa using h)

@[simp] theorem runController_dReg (w : List Stimulus) : (runController w s).dReg = s.dReg :=
  runController_keeps (fun u => u.dReg = s.dReg) w s rfl (fun _ _ h => h) (fun u _ h => by simpa using h)
    (fun u a _ h => by simpa using h)

@[simp] theorem runController_dLen (w : List Stimulus) : (runController w s).dLen = s.dLen :=
  runController_keeps (fun u => u.dLen = s.dLen) w s rfl (fun _ _ h => h) (fun u _ h => by simpa using h)
    (fun u a _ h => by simpa using h)

@[simp] theorem runController_dByte (w : List Stimulus) : (runController w s).dByte = s.dByte :=
  runController_keeps (fun u => u.dByte = s.dByte) w s rfl (fun _ _ h => h) (fun u _ h => by simpa using h)
    (fun u a _ h => by simpa using h)

@[simp] theorem runController_replies (w : List Stimulus) : (runController w s).replies = s.replies :=
  runController_keeps (fun u => u.replies = s.replies) w s rfl (fun _ _ h => h) (fun u _ h => by simpa using h)
    (fun u a _ h => by simpa using h)

@[simp] theorem runController_cfg (w : List Stimulus) : (runController w s).cfg = s.cfg :=
  runController_keeps (fun u => u.cfg = s.cfg) w s rfl (fun _ _ h => h) (fun u _ h => by simpa using h)
    (fun u a _ h => by simpa using h)

/-- While an operation is in flight, turns of the controller do nothing (R46). -/
theorem runController_replicate_tick (n : Nat) (hl : s.leOp ≠ .none) :
    ∃ w, runController (List.replicate n .tick) s = { s with world := w } := by
  induction n generalizing s with
  | zero => exact ⟨s.world, rfl⟩
  | succ n ih =>
    simp only [List.replicate_succ, runController]
    split
    · obtain ⟨w, hw⟩ := ih { s with world := List.replicate n .tick } hl
      have hc : controllerTurn { s with world := List.replicate n .tick } =
          { s with world := List.replicate n .tick } := by simp [controllerTurn, hl]
      exact ⟨w, by rw [hc, hw]⟩
    · exact ⟨s.world, rfl⟩

/-! ### Acceptance -/

/-- A command other than INIT answers a next state exactly when it is accepted, and which. -/
theorem acceptCommand_eq_next {i : Instr} {ph : Phase} {t : State} :
    acceptCommand i ph s = .next t ↔
      s.busy = false ∧ s.en = true ∧
        t = runController s.world { s.latch (descriptorOf i) with busy := true, ph := ph } := by
  unfold acceptCommand
  cases hb : s.busy <;> cases he : s.en <;> simp [eq_comm]

theorem acceptCommand_ready {i : Instr} {ph : Phase} (hb : s.busy = false) (he : s.en = true) :
    acceptCommand i ph s = .next (runController s.world { s.latch (descriptorOf i) with busy := true, ph := ph }) :=
  (acceptCommand_eq_next s).mpr ⟨hb, he, rfl⟩

/-- The first phase of a command (R69). -/
def firstPhase : Instr → Phase
  | .write _ _ _ => .enter
  | .read _ _ _ => .enter
  | .init _ => .prim
  | .start => .prim
  | .stop => .prim
  | .put _ => .prim
  | .getn => .prim
  | .geta => .prim

/-- Every command other than INIT is its acceptance. -/
theorem exec_eq_acceptCommand (i : Instr) (h : ∀ d, i ≠ .init d) :
    exec i s = acceptCommand i (firstPhase i) s := by
  cases i with
  | init d => exact absurd rfl (h d)
  | _ => rfl

end Sys2Proof.Machine
end

