-- ==== Sys2Proof/Laws/Encoding.lean ====
section
/-! SUPPORT. The fields of the words the encoder writes, and the rows they match. -/

namespace Sys2Proof

@[simp] theorem fieldDiv_encodeC (div : Divisor) (op : BitVec 4) : fieldDiv (encodeC div op) = div := by
  apply BitVec.eq_of_getLsbD_eq
  intro i hi
  simp only [fieldDiv, encodeC, BitVec.getLsbD_extractLsb', BitVec.getLsbD_append]
  interval_cases i <;> simp

@[simp] theorem fieldReg_encodeB (byte : Byte) (op : BitVec 4) : fieldReg (encodeB byte op) = byte := by
  apply BitVec.eq_of_getLsbD_eq
  intro i hi
  simp only [fieldReg, encodeB, BitVec.getLsbD_extractLsb', BitVec.getLsbD_append]
  interval_cases i <;> simp

@[simp] theorem fieldReg_encodeT (len reg : Byte) (sla : SlaveAddr) (op : BitVec 4) :
    fieldReg (encodeT len reg sla op) = reg := by
  apply BitVec.eq_of_getLsbD_eq
  intro i hi
  simp only [fieldReg, encodeT, BitVec.getLsbD_extractLsb', BitVec.getLsbD_append]
  interval_cases i <;> simp

@[simp] theorem fieldLen_encodeT (len reg : Byte) (sla : SlaveAddr) (op : BitVec 4) :
    fieldLen (encodeT len reg sla op) = len := by
  apply BitVec.eq_of_getLsbD_eq
  intro i hi
  simp only [fieldLen, encodeT, BitVec.getLsbD_extractLsb', BitVec.getLsbD_append]
  interval_cases i <;> simp

@[simp] theorem fieldSla_encodeT (len reg : Byte) (sla : SlaveAddr) (op : BitVec 4) :
    fieldSla (encodeT len reg sla op) = sla := by
  apply BitVec.eq_of_getLsbD_eq
  intro i hi
  simp only [fieldSla, encodeT, BitVec.getLsbD_extractLsb', BitVec.getLsbD_append]
  interval_cases i <;> simp

/-- The low four bits of a command's word are its opcode (R60, R62). -/
theorem fieldOp_encode (i : Instr) : fieldOp (encode i) = i.opcode := by
  cases i <;> apply BitVec.eq_of_getLsbD_eq <;> intro i hi <;>
    simp only [fieldOp, encode, encodeT, encodeN, encodeB, encodeC, Instr.opcode, BitVec.getLsbD_extractLsb',
      BitVec.getLsbD_append] <;>
    interval_cases i <;> simp

theorem OpcodeRow.matchesWord_iff (r : OpcodeRow) (w : Word) : r.matchesWord w = true ↔ w &&& r.mask = r.value := by
  simp [OpcodeRow.matchesWord]

/-- A word that matches a row has that row's opcode, so it matches no other. -/
theorem fieldOp_of_matchesWord {r : OpcodeRow} (h : r ∈ opcodeMap) {w : Word} (hm : r.matchesWord w = true) :
    fieldOp w = fieldOp r.value := by
  rw [OpcodeRow.matchesWord_iff] at hm
  rw [← hm]
  apply BitVec.eq_of_getLsbD_eq
  intro i hi
  simp only [fieldOp, BitVec.getLsbD_extractLsb', BitVec.getLsbD_and]
  simp only [opcodeMap, List.mem_cons, List.mem_nil_iff, or_false] at h
  rcases h with rfl | rfl | rfl | rfl | rfl | rfl | rfl | rfl <;> interval_cases i <;>
    simp [rowInit, rowStart, rowStop, rowPut, rowGetn, rowGeta, rowWrite, rowRead]

end Sys2Proof
end

