-- ==== Sys2Proof/Laws/HostPort.lean ====
section
/-! SUPPORT. What one step can do, said once. -/

namespace Sys2Proof.Machine

/-! ### Offsets -/

theorem offBuf_toNat (i : Byte) : (offBuf i).toNat = 256 + i.toNat := by
  unfold offBuf
  rw [BitVec.toNat_append, Nat.shiftLeft_eq, show BitVec.toNat (1 : BitVec 1) * 2 ^ 8 = 2 ^ 8 * 1 by decide,
    ← Nat.two_pow_add_eq_or_of_lt i.isLt]

/-- The buffer window holds byte `i` at `0x100 + i` (R41). -/
@[simp] theorem regionOf_offBuf (i : Byte) : regionOf (offBuf i) = .buffer i.toNat := by
  have h := offBuf_toNat i
  simp [regionOf, h]; omega

@[simp] theorem regionOf_offCmd : regionOf offCmd = .registers := by decide
@[simp] theorem regionOf_offStat : regionOf offStat = .registers := by decide
@[simp] theorem regionOf_offRes : regionOf offRes = .registers := by decide
@[simp] theorem regionOf_offCfg : regionOf offCfg = .registers := by decide

/-! ### Commands -/

/-- A command never faults in an idle block. -/
theorem exec_ne_fault (i : Instr) (s : State) (hb : s.busy = false) (f : Fault) : exec i s ≠ .fault f := by
  cases i with
  | init d => cases he : s.en <;> simp [exec, execInit, hb, he]
  | _ =>
    rw [exec_eq_acceptCommand _ _ (by simp)]
    simp only [acceptCommand, hb]
    split_ifs <;> simp_all

/-- What an accepted command is: INIT whole, any other its latches and then the controller (R69). -/
theorem exec_eq_next {i : Instr} {s t : State} (h : exec i s = .next t) :
    s.busy = false ∧
      ((∃ d, i = .init d ∧ s.en = false ∧
          t = { s.latch (descriptorOf i) with div := d, en := true }) ∨
       ((∀ d, i ≠ .init d) ∧ s.en = true ∧
          t = runController s.world
            { s.latch (descriptorOf i) with busy := true, ph := firstPhase i })) := by
  by_cases hi : ∃ d, i = .init d
  · obtain ⟨d, rfl⟩ := hi
    simp only [exec, execInit] at h
    split_ifs at h with hb he
    cases h
    exact ⟨by simpa using hb, .inl ⟨d, rfl, by simpa using he, rfl⟩⟩
  · have hi' : ∀ d, i ≠ .init d := fun d hd => hi ⟨d, hd⟩
    rw [exec_eq_acceptCommand s i hi'] at h
    obtain ⟨hb, he, ht⟩ := (acceptCommand_eq_next s).mp h
    exact ⟨hb, .inr ⟨hi', he, ht⟩⟩

/-! ### Host accesses -/

/-- What a host read that is answered does. -/
theorem hostRead_eq_next {width : Width} {off : Offset} {s t : State} (h : hostRead width off s = .next t) :
    ∃ v, t = s.reply v := by
  unfold hostRead at h
  repeat' split at h
  all_goals first
    | cases h; exact ⟨_, rfl⟩
    | cases h

/-- What a host write that is taken does: a command, or one buffer byte of an idle block. -/
theorem hostWrite_eq_next {width : Width} {off : Offset} {value : Word} {s t : State}
    (h : hostWrite width off value s = .next t) :
    s.busy = false ∧
      ((width = .word ∧ off = offCmd ∧ ∃ i, decode value = .ok i ∧ exec i s = .next t) ∨
       (width = .byte ∧ 256 ≤ off.toNat ∧
          t = { s with buf := s.buf.write (off.toNat - 256) (value.setWidth 8) })) := by
  unfold hostWrite at h
  split at h
  · split_ifs at h with hok hoff
    unfold writeCommand at h
    split_ifs at h with hb
    split at h
    · rename_i i hd
      simp only [registerAccessOk, Bool.and_eq_true, decide_eq_true_eq] at hok
      exact ⟨by simpa using hb, .inl ⟨hok.1, hoff, i, hd, h⟩⟩
    · cases h
  · cases h
  · rename_i i hr
    split_ifs at h with hw hb
    cases h
    refine ⟨by simpa using hb, .inr ⟨hw, ?_⟩⟩
    unfold regionOf at hr
    split_ifs at hr with h1 h2
    injection hr with hr
    subst hr
    exact ⟨by omega, rfl⟩

/-! ### One step -/

theorem step_nil {s : State} (h : s.world = []) : step s = .next s := by simp [step, worldStep, h]

theorem step_tick {s : State} {rest : List Stimulus} (h : s.world = .tick :: rest) :
    step s = .next (controllerTurn { s with world := rest }) := by simp [step, worldStep, h]

theorem step_bus {s : State} {a : Answer} {rest : List Stimulus} (h : s.world = .bus a :: rest) :
    step s = .next (busCompletes a { s with world := rest }) := by simp [step, worldStep, h]

theorem step_reset {s : State} {d : ResetDraw} {rest : List Stimulus} (h : s.world = .reset d :: rest) :
    step s = .next ({ s with world := rest }.strikeReset d) := by simp [step, worldStep, h]

theorem step_host {s : State} {a : HostAccess} {rest : List Stimulus} (h : s.world = .host a :: rest) :
    step s = hostAccess a { s with world := rest } := by simp [step, worldStep, h]

/-- Everything a step that answers a next state can have done. -/
theorem step_eq_next {s t : State} (h : step s = .next t) :
    (s.world = [] ∧ t = s) ∨
    (∃ rest, s.world = .tick :: rest ∧ t = controllerTurn { s with world := rest }) ∨
    (∃ a rest, s.world = .bus a :: rest ∧ t = busCompletes a { s with world := rest }) ∨
    (∃ d rest, s.world = .reset d :: rest ∧ t = { s with world := rest }.strikeReset d) ∨
    (∃ width off v rest, s.world = .host (.read width off) :: rest ∧ t = { s with world := rest }.reply v) ∨
    (∃ off value rest, s.world = .host (.write .byte off value) :: rest ∧ s.busy = false ∧ 256 ≤ off.toNat ∧
      t = { s with world := rest, buf := s.buf.write (off.toNat - 256) (value.setWidth 8) }) ∨
    (∃ value i rest, s.world = .host (.write .word offCmd value) :: rest ∧ s.busy = false ∧ decode value = .ok i ∧
      exec i { s with world := rest } = .next t) := by
  match hw : s.world with
  | [] => rw [step_nil hw] at h; cases h; exact .inl ⟨rfl, rfl⟩
  | .tick :: rest => rw [step_tick hw] at h; cases h; exact .inr (.inl ⟨rest, rfl, rfl⟩)
  | .bus a :: rest => rw [step_bus hw] at h; cases h; exact .inr (.inr (.inl ⟨a, rest, rfl, rfl⟩))
  | .reset d :: rest => rw [step_reset hw] at h; cases h; exact .inr (.inr (.inr (.inl ⟨d, rest, rfl, rfl⟩)))
  | .host (.read width off) :: rest =>
    rw [step_host hw] at h
    obtain ⟨v, rfl⟩ := hostRead_eq_next h
    exact .inr (.inr (.inr (.inr (.inl ⟨width, off, v, rest, rfl, rfl⟩))))
  | .host (.write width off value) :: rest =>
    rw [step_host hw] at h
    obtain ⟨hb, ⟨rfl, rfl, i, hd, he⟩ | ⟨rfl, ho, rfl⟩⟩ := hostWrite_eq_next h
    · exact .inr (.inr (.inr (.inr (.inr (.inr ⟨value, i, rest, rfl, hb, hd, he⟩)))))
    · exact .inr (.inr (.inr (.inr (.inr (.inl ⟨off, value, rest, rfl, hb, ho, rfl⟩)))))

end Sys2Proof.Machine
end

