-- ==== Sys2Proof/Laws/Invariant.lean ====
section
/-! SUPPORT. The counters and opcodes the invariant speaks of. -/

namespace Sys2Proof.Machine

theorem isPrimitiveOp_iff (op : BitVec 4) :
    isPrimitiveOp op = true ↔ op = 2#4 ∨ op = 3#4 ∨ op = 4#4 ∨ op = 7#4 ∨ op = 6#4 := by
  simp only [isPrimitiveOp, Bool.or_eq_true, decide_eq_true_eq]
  simp [Instr.opcode, or_assoc]

theorem byte_pos_of_ne_zero {x : Byte} (h : x ≠ 0) : 0 < x.toNat := by
  rcases Nat.eq_zero_or_pos x.toNat with h0 | h0
  · exact absurd (BitVec.eq_of_toNat_eq (by simpa using h0)) h
  · exact h0

theorem retry_sub_one {r : Byte} (h : 0 < r.toNat) : (r - 1).toNat = r.toNat - 1 := by
  have := r.isLt
  rw [BitVec.toNat_sub]
  simp
  omega

/-- The retry counter after a failed attempt that was not the last stays in its range (R29, R137). -/
theorem retry_after_attempt {r : Byte} {m : Nat} (h0 : 0 < r.toNat) (hm : r.toNat ≤ m) (h : r - 1 ≠ 0) :
    0 < (r - 1).toNat ∧ (r - 1).toNat ≤ m :=
  ⟨byte_pos_of_ne_zero h, by rw [retry_sub_one h0]; omega⟩

/-- The next data index, where one is left (R15, R29). -/
theorem idx_add_one {i l : Byte} (h : i.toNat + 1 < l.toNat) : (i + 1).toNat = i.toNat + 1 := by
  have := l.isLt
  rw [BitVec.toNat_add]
  simp
  omega

end Sys2Proof.Machine
end

