-- ==== Sys2Proof/Laws/PerInstr.lean ====
section
/-! SUPPORT. The family of statements made of each command as syntax: its word matches its own row of the opcode map and
no other. -/

namespace Sys2Proof.Laws.EncodeMatchesRow

/-- The word of a command matches the command's row of R62 and carries its opcode, and its row is one of the map. -/
def Statement (i : Instr) : Prop :=
  i.row ∈ opcodeMap ∧ i.row.matchesWord (encode i) = true ∧ fieldOp (encode i) = i.opcode

theorem init (div : Divisor) : Statement (.init div) := by
  refine ⟨by simp [opcodeMap, Instr.row], ?_, fieldOp_encode _⟩
  rw [OpcodeRow.matchesWord_iff]
  apply BitVec.eq_of_getLsbD_eq
  intro i hi
  simp only [encode, encodeC, Instr.opcode, Instr.row, rowInit, BitVec.getLsbD_and, BitVec.getLsbD_append]
  interval_cases i <;> simp

theorem start : Statement .start := by unfold Statement; decide

theorem stop : Statement .stop := by unfold Statement; decide

theorem put (byte : Byte) : Statement (.put byte) := by
  refine ⟨by simp [opcodeMap, Instr.row], ?_, fieldOp_encode _⟩
  rw [OpcodeRow.matchesWord_iff]
  apply BitVec.eq_of_getLsbD_eq
  intro i hi
  simp only [encode, encodeB, Instr.opcode, Instr.row, rowPut, BitVec.getLsbD_and, BitVec.getLsbD_append]
  interval_cases i <;> simp

theorem getn : Statement .getn := by unfold Statement; decide

theorem geta : Statement .geta := by unfold Statement; decide

theorem write (sla : SlaveAddr) (len reg : Byte) : Statement (.write sla len reg) := by
  refine ⟨by simp [opcodeMap, Instr.row], ?_, fieldOp_encode _⟩
  rw [OpcodeRow.matchesWord_iff]
  apply BitVec.eq_of_getLsbD_eq
  intro i hi
  simp only [encode, encodeT, Instr.opcode, Instr.row, rowWrite, BitVec.getLsbD_and, BitVec.getLsbD_append]
  interval_cases i <;> simp

theorem read (sla : SlaveAddr) (len reg : Byte) : Statement (.read sla len reg) := by
  refine ⟨by simp [opcodeMap, Instr.row], ?_, fieldOp_encode _⟩
  rw [OpcodeRow.matchesWord_iff]
  apply BitVec.eq_of_getLsbD_eq
  intro i hi
  simp only [encode, encodeT, Instr.opcode, Instr.row, rowRead, BitVec.getLsbD_and, BitVec.getLsbD_append]
  interval_cases i <;> simp

end Sys2Proof.Laws.EncodeMatchesRow
end

