-- ==== Sys2Proof/Laws/Run.lean ====
section
/-! SUPPORT. Runs of the machine, and a controller's run as single steps. -/

namespace Sys2Proof.Machine

@[simp] theorem runSteps_zero (s : State) : runSteps 0 s = .next s := rfl

theorem runSteps_succ (n : Nat) (s : State) :
    runSteps (n + 1) s =
      match step s with
      | .next u => runSteps n u
      | .fault f => .fault f
      | .refused r => .refused r := rfl

/-- A machine's run, one step at a time. -/
theorem coreRun_succ (M : Host.Core) (n : Nat) (s : M.State) :
    (∀ u, M.step s = .next u → M.run (n + 1) s = M.run n u) ∧
    (∀ f, M.step s = .fault f → M.run (n + 1) s = .fault f) ∧
    (∀ r, M.step s = .refused r → M.run (n + 1) s = .refused r) := by
  refine ⟨fun u h => ?_, fun f h => ?_, fun r h => ?_⟩ <;> simp [Host.Core.run, h]

/-- `runSteps` is the host's own run of the machine. -/
theorem runSteps_eq_core (n : Nat) (s : State) : runSteps n s = Host.Core.run Sys2Proof.core n s := by
  induction n generalizing s with
  | zero => rfl
  | succ n ih =>
    rw [runSteps_succ]
    cases h : step s with
    | next u => exact (ih u).trans ((coreRun_succ Sys2Proof.core n s).1 u h).symm
    | fault f => exact ((coreRun_succ Sys2Proof.core n s).2.1 f h).symm
    | refused r => exact ((coreRun_succ Sys2Proof.core n s).2.2 r h).symm

theorem runSteps_of_next {n : Nat} {s u : State} (h : step s = .next u) : runSteps (n + 1) s = runSteps n u := by
  rw [runSteps_succ, h]

theorem runSteps_of_fault {n : Nat} {s : State} {f : Fault} (h : step s = .fault f) :
    runSteps (n + 1) s = .fault f := by
  rw [runSteps_succ, h]

theorem runSteps_of_refused {n : Nat} {s : State} {r : Refusal} (h : step s = .refused r) :
    runSteps (n + 1) s = .refused r := by
  rw [runSteps_succ, h]

/-! ### Runs of one command -/

/-- Everything a step can do while a command runs and no reset comes next: nothing but take a stimulus off the world, a
turn, a completion, or a host's read. -/
theorem step_busy_eq_next {s t : State} (hb : s.busy = true) (hr : noResetNext s = true) (h : step s = .next t) :
    (∃ w vs, t = { s with world := w, replies := s.replies ++ vs }) ∨
    (∃ w, t = controllerTurn { s with world := w }) ∨ ∃ w a, t = busCompletes a { s with world := w } := by
  rcases step_eq_next h with ⟨-, rfl⟩ | ⟨w, -, rfl⟩ | ⟨a, w, -, rfl⟩ | ⟨d, w, hw, -⟩ | ⟨-, -, v, w, -, rfl⟩ |
      ⟨-, -, -, -, hn, -⟩ | ⟨-, -, -, -, hn, -⟩
  · exact .inl ⟨t.world, [], by simp⟩
  · exact .inr (.inl ⟨w, rfl⟩)
  · exact .inr (.inr ⟨w, a, rfl⟩)
  · simp [noResetNext, hw] at hr
  · exact .inl ⟨w, [v], rfl⟩
  · simp [hb] at hn
  · simp [hb] at hn

/-- What holds of a state, and is kept while a command runs by a stimulus taken off the world, a host's read, a turn and a
completion, holds after the run. -/
theorem RunsBusy.keeps (P : State → Prop) {n : Nat} {s t : State} (hrun : RunsBusy n s t) (h : P s)
    (hread : ∀ u w vs, P u → P { u with world := w, replies := u.replies ++ vs })
    (hturn : ∀ u, u.busy = true → P u → P (controllerTurn u))
    (hbus : ∀ u a, u.busy = true → P u → P (busCompletes a u)) : P t := by
  have hworld : ∀ u w, P u → P { u with world := w } := fun u w hu => by simpa using hread u w [] hu
  induction n generalizing s with
  | zero => exact (show t = s from hrun) ▸ h
  | succ n ih =>
    obtain ⟨hb, hr, u, hs, hrest⟩ := hrun
    refine ih hrest ?_
    rcases step_busy_eq_next hb hr hs with ⟨w, vs, rfl⟩ | ⟨w, rfl⟩ | ⟨w, a, rfl⟩
    · exact hread _ _ _ h
    · exact hturn _ hb (hworld _ _ h)
    · exact hbus _ _ hb (hworld _ _ h)

/-- A run of a command is the machine's run. -/
theorem RunsBusy.runSteps_eq {n : Nat} {s t : State} (h : RunsBusy n s t) : runSteps n s = .next t := by
  induction n generalizing s with
  | zero => rw [show t = s from h]; rfl
  | succ n ih =>
    obtain ⟨-, -, u, hs, hrest⟩ := h
    rw [runSteps_of_next hs, ih hrest]

@[simp] theorem State.ready_iff (s : State) :
    s.ready = true ↔ s.busy = false ∧ s.en = true ∧ s.leOp = .none := by
  simp [State.ready, and_assoc]

end Sys2Proof.Machine
end

