-- ==== Sys2Proof/Tests/Slice0.lean ====
section
/-! SUPPORT. Tests with results taken from the spec (95_test_vectors.md unless said otherwise), and, for every statement of
Obligations.lean that has hypotheses, a state and operands that meet them together (`witness_<its name>`). -/

namespace Sys2Proof.Tests

open Sys2Proof Sys2Proof.Machine

/-! ## Helpers -/

/-- The outcome is a next state with this property. -/
def nextIs (p : State → Bool) : Host.Outcome State Fault Refusal → Bool
  | .next t => p t
  | .fault _ => false
  | .refused _ => false

theorem exists_of_nextIs {p : State → Bool} {o : Host.Outcome State Fault Refusal} (h : nextIs p o = true) :
    ∃ t, o = .next t ∧ p t = true := by
  cases o with
  | next t => exact ⟨t, rfl, h⟩
  | fault f => cases h
  | refused r => cases h

/-- `n` steps while a command runs and no reset comes next lead to a state with this property. -/
def runCheck : Nat → State → (State → Bool) → Bool
  | 0, s, p => p s
  | n + 1, s, p => s.busy && noResetNext s && nextIs (fun u => runCheck n u p) (step s)

theorem runsBusy_of_check {n : Nat} {s : State} {p : State → Bool} (h : runCheck n s p = true) :
    ∃ t, RunsBusy n s t ∧ p t = true := by
  induction n generalizing s with
  | zero => exact ⟨s, rfl, h⟩
  | succ n ih =>
    simp only [runCheck, Bool.and_eq_true] at h
    obtain ⟨u, hs, hu⟩ := exists_of_nextIs h.2
    obtain ⟨t, ht, hp⟩ := ih hu
    exact ⟨t, ⟨h.1.1, h.1.2, u, hs, ht⟩, hp⟩

theorem commandRun_of_check {i : Instr} {s : State} {n : Nat} {p : State → Bool}
    (h : nextIs (fun u => runCheck n { u with world := s.world } p) (exec i { s with world := [] }) = true) :
    ∃ t, Reaches i s t ∧ p t = true := by
  obtain ⟨u, he, hu⟩ := exists_of_nextIs h
  obtain ⟨t, ht, hp⟩ := runsBusy_of_check hu
  exact ⟨t, .inr ⟨n, u, he, ht⟩, hp⟩

/-- The vectors' state before: after `INIT 72`. -/
def afterInit : State := { State.reset with en := true, div := 72 }

/-- This hardware with another `MAX_RESTARTS`. -/
def withBound (n : Byte) : Config := { Config.hardware with maxRestarts := n }

/-- After `INIT 72` with the bus held. -/
def afterInitHeld : State := { afterInit with held := true }

/-- An answer of the environment. -/
def ans (hs : HwStatus) (b : Byte) : Answer := { status := hs, byte := b }

/-- A primitive's world: its turn, and its completion with this answer. -/
def oneOperation (a : Answer) : List Stimulus := [.tick, .bus a]

/-- A 32-bit write to `CMD`. -/
def cmdWrite (w : Word) : Stimulus := .host (.write .word 0x000 w)

/-- `s` with this world. -/
def within (w : List Stimulus) (s : State) : State := { s with world := w }

/-- A command that runs: a WRITE of one byte to 0x53 in phase `p` with `op` in flight. -/
def running (p : Phase) (op : LineOp) : State :=
  { afterInit with busy := true, ph := p, leOp := op, dOp := 8, dSla := 0x53, dReg := 0x2D, dLen := 1, retry := 20 }

/-- The same for a READ of two bytes. -/
def runningRead (p : Phase) (op : LineOp) : State :=
  { afterInit with
    busy := true, ph := p, leOp := op, dOp := 9, dDir := true, dSla := 0x53, dReg := 0x32, dLen := 2, retry := 20 }

/-- A reset draw of no special values. -/
def someDraw : ResetDraw where
  div := 0x1234
  idx := 7
  rcp := 15
  retry := 9
  dOp := 5
  dDir := true
  dSla := 0x55
  dReg := 1
  dLen := 2
  dByte := 3
  rc := 12
  sr := true
  ac := 7
  data := 0xEE
  done := true
  hwstat := .busError
  shift := 0x77
  ackPol := true
  bufBytes := [1, 2, 3]

/-- Like `promptWorld`, with a host that reads `STAT` before every completion. -/
def polledWorld (answers : List Answer) : List Stimulus :=
  .tick :: answers.flatMap (fun a => [.tick, .host (.read .word 0x004), .bus a])

def ack : Answer := ans .txAck 0
def nack : Answer := ans .txNack 0
def startAns : Answer := ans .start 0
def rstartAns : Answer := ans .rstart 0
def stopAns : Answer := ans .other 0

/-! ## WellFormed (30_encoding.md R66): each check refuses an ill-formed line -/

theorem test_init_divisor_too_large : (Asm.init 65536).wellFormed = false ∧ (Asm.init 65536).assemble = none := by
  decide
theorem test_put_byte_too_large : (Asm.put 256).wellFormed = false ∧ (Asm.put 256).assemble = none := by decide
theorem test_write_operands_too_large : (Asm.write 128 0 0).wellFormed = false ∧
    (Asm.write 0 256 0).wellFormed = false ∧ (Asm.write 0 0 256).wellFormed = false := by decide
theorem test_read_operands_too_large : (Asm.read 128 0 0).wellFormed = false ∧
    (Asm.read 0 256 0).wellFormed = false ∧ (Asm.read 0 0 256).wellFormed = false := by decide
theorem test_largest_operands_assemble : (Asm.write 0x7F 255 0xFF).assemble = some (.write 0x7F 0xFF 0xFF) ∧
    (Asm.init 65535).assemble = some (.init 0xFFFF) := by decide

/-! ## Decoding and encoding (section 4) -/

/-- The words of section 4 bit by bit from the formats of R61, one for every constructor. -/
theorem test_decode_words_from_the_formats :
    decode 0b00000000000001001000000000000001 = .ok (.init 72) ∧
    decode 0b00000000000000000000000000000010 = .ok .start ∧
    decode 0b00000000000000000000000000000011 = .ok .stop ∧
    decode 0b00000000000010100110000000000100 = .ok (.put 0xA6) ∧
    decode 0b00000000000000000000000000000110 = .ok .getn ∧
    decode 0b00000000000000000000000000000111 = .ok .geta ∧
    decode 0b00000000000100101101010100111000 = .ok (.write 0x53 1 0x2D) ∧
    decode 0b00000000011000110010010100111001 = .ok (.read 0x53 6 0x32) := by decide

theorem test_decode_more_vectors :
    decode 0x00000001 = .ok (.init 0) ∧ decode 0x0FFFF001 = .ok (.init 65535) ∧ decode 0x00000004 = .ok (.put 0) ∧
    decode 0x000FF004 = .ok (.put 0xFF) ∧ decode 0x00000008 = .ok (.write 0 0 0) ∧
    decode 0x0FFFF7F8 = .ok (.write 0x7F 255 0xFF) ∧ decode 0x0FFFF7F9 = .ok (.read 0x7F 255 0xFF) ∧
    decode 0x00175689 = .ok (.read 0x68 1 0x75) ∧ decode 0x003003C8 = .ok (.write 0x3C 3 0x00) := by decide

theorem test_decode_reserved_opcodes :
    decode 0x00000000 = .error .reservedOpcode ∧ decode 0x00000005 = .error .reservedOpcode ∧
    decode 0x0000000A = .error .reservedOpcode ∧ decode 0x0000000F = .error .reservedOpcode := by decide

theorem test_decode_must_be_zero :
    decode 0x00000012 = .error .mustBeZero ∧ decode 0x00000011 = .error .mustBeZero ∧
    decode 0x10000001 = .error .mustBeZero ∧ decode 0x00100004 = .error .mustBeZero ∧
    decode 0x00000104 = .error .mustBeZero ∧ decode 0x00000808 = .error .mustBeZero ∧
    decode 0x10000008 = .error .mustBeZero := by decide

theorem test_encode_vectors :
    encode (.init 72) = 0x00048001 ∧ encode .start = 0x00000002 ∧ encode .stop = 0x00000003 ∧
    encode (.put 0xA6) = 0x000A6004 ∧ encode .getn = 0x00000006 ∧ encode .geta = 0x00000007 ∧
    encode (.write 0x53 1 0x2D) = 0x0012D538 ∧ encode (.read 0x53 6 0x32) = 0x00632539 := by decide

theorem test_decodeTableWord : decodeTableWord 32 0x0012D538 = some (.write 0x53 1 0x2D) ∧
    decodeTableWord 32 0x00000012 = none ∧ decodeTableWord 40 0x100000002 = none := by decide

/-! ## Acceptance order (section 4) -/

theorem test_start_before_init_is_refused :
    step (within [cmdWrite 0x00000002] State.reset) = .refused .notInitialised := rfl
theorem test_reserved_word_is_tested_before_enable :
    step (within [cmdWrite 0x00000000] State.reset) = .refused .reservedEncoding := rfl
theorem test_reentry_is_tested_first :
    step (within [cmdWrite 0x00000000] (running .start1 .start)) = .fault .reentry ∧
    step (within [cmdWrite 0x00048001] (running .start1 .start)) = .fault .reentry := ⟨rfl, rfl⟩

/-- The host's presentation of a table word after reset runs the command. -/
theorem test_withFetchWord_runs_the_word :
    nextIs (fun t => t.div == 72 && t.en && !t.busy) (step (State.reset.withFetchWord 32 0x00048001)) = true ∧
    nextIs (fun t => t.dSla == 0x53 && t.dLen == 6 && t.dReg == 0x32 && t.busy)
      (step (State.reset.withFetchWord 32 0x00632539)) = true := by decide

/-! ## The host window (section 5) -/

theorem test_cmd_and_cfg_read :
    nextIs (fun t => t.replies == [0]) (hostRead .word 0x000 afterInit) = true ∧
    nextIs (fun t => t.replies == [0x00000048]) (hostRead .word 0x00C afterInit) = true := by decide
theorem test_read_only_registers :
    hostWrite .word 0x004 0 afterInit = .refused .writeToReadOnly ∧
    hostWrite .word 0x008 0 afterInit = .refused .writeToReadOnly ∧
    hostWrite .word 0x00C 0 afterInit = .refused .writeToReadOnly := ⟨rfl, rfl, rfl⟩
theorem test_bad_accesses :
    hostRead .byte 0x004 afterInit = .refused .badAccess ∧ hostRead .half 0x004 afterInit = .refused .badAccess ∧
    hostRead .word 0x006 afterInit = .refused .badAccess ∧ hostRead .word 0x100 afterInit = .refused .badAccess ∧
    hostRead .word 0x00F afterInit = .refused .badAccess ∧ hostRead .byte 0x00F afterInit = .refused .badAccess :=
  ⟨rfl, rfl, rfl, rfl, rfl, rfl⟩
theorem test_hole :
    hostRead .word 0x010 afterInit = .refused .noSuchRegister ∧
    hostWrite .byte 0x0FC 0 afterInit = .refused .noSuchRegister ∧
    hostRead .byte 0x0FF afterInit = .refused .noSuchRegister := ⟨rfl, rfl, rfl⟩
theorem test_buffer_ends :
    nextIs (fun t => t.buf.read 0 == 0x5A && t.buf.read 255 == 0) (hostWrite .byte 0x100 0x5A afterInit) = true ∧
    nextIs (fun t => t.buf.read 255 == 0x01 && t.buf.read 0 == 0) (hostWrite .byte 0x1FF 0x01 afterInit) = true := by
  decide
theorem test_buffer_race :
    hostRead .byte 0x100 (running .start1 .start) = .fault .bufferRace ∧
    hostWrite .byte 0x100 0 (running .start1 .start) = .fault .bufferRace := ⟨rfl, rfl⟩
theorem test_stat_while_waiting_for_the_first_start :
    (statImage (running .start1 .start)).extractLsb' 0 16 = 0x1423 := by decide

/-! ## The commands -/

/-- INIT 72 after reset, and again. -/
theorem test_init_once :
    nextIs (fun t => t.en && t.div == 72 && !t.busy && t.dOp == 1 && cfgImage t == 0x00000048 &&
      (statImage t).extractLsb' 0 3 == 0b010) (exec (.init 72) State.reset) = true := by decide
theorem test_init_twice : exec (.init 72) afterInit = .refused .alreadyInitialised := rfl

/-- T4: a lost arbitration at a Repeated Start. -/
theorem test_start_T4 :
    nextIs (fun t => t.sr && !t.held && !t.busy && t.trace == [.start .repeated .arbLost])
      (exec .start (within (oneOperation (ans .arbLost 0)) afterInitHeld)) = true := by decide
/-- T5: the kind comes from `HELD`, not from the answer. -/
theorem test_start_T5 :
    nextIs (fun t => !t.sr && t.held && t.trace == [.start .fresh .rstart])
      (exec .start (within (oneOperation rstartAns) afterInit)) = true := by decide

/-- T8. -/
theorem test_stop_T8 :
    nextIs (fun t => !t.held && !t.busy && t.trace == [.stop]) (exec .stop (within (oneOperation stopAns) afterInitHeld))
      = true := by decide
/-- T10: a Stop that never completes. -/
theorem test_stop_T10 :
    nextIs (fun t => t.held && t.busy && t.trace == []) (exec .stop (within [.tick] afterInitHeld)) = true := by decide

/-- T13: a lost arbitration clears `HELD`. -/
theorem test_put_T13 :
    nextIs (fun t => t.ac == 2 && !t.held && t.trace == [.tx 0x2D .arbLost])
      (exec (.put 0x2D) (within (oneOperation (ans .arbLost 0)) afterInitHeld)) = true := by decide
/-- T16: a Start status after a byte is Unknown, and the bus stays held. -/
theorem test_put_T16 :
    nextIs (fun t => t.ac == 4 && t.held && t.trace == [.tx 0x2D .start])
      (exec (.put 0x2D) (within (oneOperation startAns) afterInitHeld)) = true := by decide

/-- T18. -/
theorem test_geta_T18 :
    nextIs (fun t => t.data == 0x01 && t.held && t.trace == [.rx 0x01 true])
      (exec .geta (within (oneOperation (ans .other 0x01)) afterInitHeld)) = true := by decide
/-- T21: a receive that never completes. -/
theorem test_geta_T21 :
    nextIs (fun t => t.busy && t.data == 0) (exec .geta (within [.tick] afterInitHeld)) = true := by decide
/-- T19: no Stop is implied. -/
theorem test_getn_T19 :
    nextIs (fun t => t.data == 0x06 && t.held && t.trace == [.rx 0x06 false])
      (exec .getn (within (oneOperation (ans .other 0x06)) afterInitHeld)) = true := by decide

/-- V3. -/
theorem test_write_V3 :
    nextIs (fun t => statImage t == 0x00011402 && t.rc == 0 && t.trace ==
        [.start .fresh .start, .tx 0xA6 .txAck, .tx 0x2D .txAck, .tx 0x08 .txAck, .stop])
      (exec (.write 0x53 1 0x2D)
        (within (promptWorld [startAns, ack, ack, ack, stopAns]) { afterInit with buf := [(0, 0x08)] })) = true := by
  decide
/-- V11: `IDX` is the index of the byte rejected. -/
theorem test_write_V11 :
    nextIs (fun t => t.rc == 4 && t.idx == 1 && t.retry == 20 && (resImage t).extractLsb' 0 8 == 0x24 && t.trace ==
        [.start .fresh .start, .tx 0xA6 .txAck, .tx 0x2D .txAck, .tx 0x11 .txAck, .tx 0x22 .txNack, .stop])
      (exec (.write 0x53 3 0x2D) (within (promptWorld [startAns, ack, ack, ack, nack, stopAns])
        { afterInit with buf := [(0, 0x11), (1, 0x22), (2, 0x33)] })) = true := by decide

/-- V18 with a lost arbitration: code 5 all the same, and no retry. -/
theorem test_read_V18 :
    nextIs (fun t => t.rc == 5 && t.retry == 20 && (resImage t).extractLsb' 0 8 == 0x45 && t.buf == [])
      (exec (.read 0x53 2 0x32)
        (within (promptWorld [startAns, ack, ack, rstartAns, ans .arbLost 0, stopAns]) afterInit)) = true := by decide
/-- V20. -/
theorem test_read_V20 :
    nextIs (fun t => t.rc == 0 && t.buf == [(0, 0x5A), (1, 0xA5)] && t.data == 0xA5 && t.idx == 2 && t.trace ==
        [.start .fresh .start, .tx 0xA6 .txAck, .tx 0x32 .txAck, .start .repeated .rstart, .tx 0xA7 .txAck,
          .rx 0x5A true, .rx 0xA5 false, .stop])
      (exec (.read 0x53 2 0x32)
        (within (promptWorld [startAns, ack, ack, rstartAns, ack, ans .other 0x5A, ans .other 0xA5, stopAns]) afterInit))
      = true := by decide

/-- V9's shape with three attempts: the counter is shared by failed Starts and rejected addresses. -/
theorem test_retry_counter_is_shared :
    nextIs (fun t => t.rc == 0 && t.retry == 1 && startAttempts t.trace == 3)
      (exec (.write 0x53 1 0x2D) (within (promptWorld [stopAns, startAns, nack, rstartAns, ack, ack, ack, stopAns])
        { afterInit with cfg := withBound 3 })) = true := by decide

/-- Program F (section 8): the second `cmd` is a fault though the environment would have answered the first by then. -/
theorem test_program_F :
    playScript [.cmd (.write 0x53 1 0x2D), .cmd .stop]
      (within (promptWorld [startAns, ack, ack, ack, stopAns]) { afterInit with buf := [(0, 0x08)] }) =
      .fault .reentry := rfl

/-! ## Witnesses: the hypotheses of every statement can be met together -/

theorem witness_EncodeOfDecodeIsTheWord : decode 0x0012D538 = .ok (.write 0x53 1 0x2D) := by decide

theorem witness_WordIsTheCommandOfTheRowItMatches :
    (0x0FFFF7F9 : Word) &&& 0xF000080F = 0x00000009 ∧ (0x0FFFFFF9 : Word) &&& 0xF000080F ≠ 0x00000009 := by decide

theorem witness_ReservedWordIsRefused :
    afterInit.busy = false ∧ (∀ r ∈ opcodeMap, (0x00000005 : Word) &&& r.mask ≠ r.value) ∧
    (within [cmdWrite 0x00000005] afterInit).world = cmdWrite 0x00000005 :: [] := by decide

/-- At both ends of every range: the largest operands are accepted, one more is not. -/
theorem witness_AssemblerTakesExactlyTheOperandRanges :
    (Asm.init 65535).assemble = some (.init 65535) ∧ (Asm.init 65536).assemble = none ∧
    (Asm.put 255).assemble = some (.put 255) ∧ (Asm.put 256).assemble = none ∧
    (Asm.read 127 255 255).assemble = some (.read 127 255 255) ∧ (Asm.read 128 255 255).assemble = none ∧
    (Asm.write 127 256 255).wellFormed = false ∧ (Asm.write 127 255 256).wellFormed = false := by decide

theorem witness_StepRunsTheDecodedCommand :
    (within [cmdWrite 0x00000002, .tick] afterInit).busy = false ∧
    (within [cmdWrite 0x00000002, .tick] afterInit).world = .host (.write .word 0x000 0x00000002) :: [.tick] ∧
    decode 0x00000002 = .ok .start := by decide

theorem witness_CommandWhileBusyIsReentry :
    (within [cmdWrite 0x00000000] (running .enter .none)).busy = true ∧
    (within [cmdWrite 0x00000000] (running .enter .none)).world = .host (.write .word 0x000 0x00000000) :: [] := by decide

theorem witness_InitIsDueExactlyOnce :
    (State.reset.busy = false ∧ State.reset.en = false ∧ ∀ d, Instr.start ≠ .init d) ∧
    (afterInit.busy = false ∧ afterInit.en = true ∧ ∃ d, Instr.init 72 = .init d) ∧
    (∃ t, exec .stop afterInit = .next t ∧ t.busy = true) ∧
    (within [.reset someDraw] afterInit).world = .reset someDraw :: [] :=
  ⟨⟨rfl, rfl, by simp⟩, ⟨rfl, rfl, 72, rfl⟩, exists_of_nextIs (by decide), rfl⟩

theorem witness_InitCompletes :
    (State.reset.busy = false ∧ State.reset.en = false) ∧ (afterInit.busy = false ∧ afterInit.en = true) ∧
    (running .start1 .start).busy = true := by decide

theorem witness_RegisterImagesAreTheTable :
    (within [.host (.write .word 0x00C 1)] afterInit).world = .host (.write .word 0x00C 1) :: [] := rfl

/-- The hypotheses of `TurnedAway` and of `HangsUnanswered`, which the statements on the primitives use. -/
theorem witness_turned_away_and_unanswered :
    (running .start1 .start).busy = true ∧ (State.reset.busy = false ∧ State.reset.en = false) ∧
    ((within [.tick, .tick] afterInit).ready = true ∧
      (within [.tick, .tick] afterInit).world = List.replicate 2 .tick) := by decide

/-- A primitive that runs, with `op` in flight. -/
def runningPrimitive (opcode : BitVec 4) (op : LineOp) : State :=
  { afterInit with busy := true, ph := .prim, leOp := op, dOp := opcode, dByte := 0xA6 }

/-- The completion rows of `PRIM`, in the statements on START, STOP, PUT, GETA and GETN. -/
theorem witness_primitive_rows :
    ((runningPrimitive 2 .start).ph = .prim ∧ (runningPrimitive 2 .start).leOp = .start ∧
      (within [.bus startAns] (runningPrimitive 2 .start)).world = .bus startAns :: []) ∧
    ((runningPrimitive 3 .stop).ph = .prim ∧ (runningPrimitive 3 .stop).leOp = .stop ∧
      (within [.bus stopAns] (runningPrimitive 3 .stop)).world = .bus stopAns :: []) ∧
    ((runningPrimitive 4 (.tx 0xA6)).ph = .prim ∧ (runningPrimitive 4 (.tx 0xA6)).leOp = .tx 0xA6 ∧
      (within [.bus nack] (runningPrimitive 4 (.tx 0xA6))).world = .bus nack :: []) ∧
    ((runningPrimitive 7 (.rx true)).ph = .prim ∧ (runningPrimitive 7 (.rx true)).leOp = .rx true ∧
      (within [.bus ack] (runningPrimitive 7 (.rx true))).world = .bus ack :: []) := by decide

theorem witness_AcceptanceLatchesAndSetsBusy :
    afterInit.ready = true ∧ (∀ d, Instr.read 0x53 6 0x32 ≠ .init d) ∧ (∀ rest, afterInit.world ≠ .tick :: rest) ∧
    (∀ ans rest, afterInit.world ≠ .bus ans :: rest) := by
  refine ⟨by decide, ?_, ?_, ?_⟩ <;> intros <;> intro h <;> cases h

theorem witness_ExecIsAcceptanceThenSteps :
    afterInit.busy = false ∧ (∀ d, Instr.start ≠ .init d) ∧
    ∃ t, exec .start (within (oneOperation startAns) afterInit) = .next t ∧ (t.busy == false) = true :=
  ⟨rfl, (by simp), exists_of_nextIs (by decide)⟩

theorem witness_HostReadFollowsTheWindow :
    (within [.host (.read .byte 0x1FF)] afterInit).world = .host (.read .byte 0x1FF) :: [] := rfl

theorem witness_HostWriteFollowsTheWindow :
    (within [.host (.write .half 0x000 1)] afterInit).world = .host (.write .half 0x000 1) :: [] ∧
    ¬ (Width.half = .word ∧ (0x000 : Offset) = 0x000) := ⟨rfl, by decide⟩

theorem witness_HostBufferWriteStoresOneByte :
    (afterInit.buf.wf = true ∧
      ∃ t, step (within [.host (.write .byte ((1 : BitVec 1) ++ (255 : Byte)) 0x5A)] afterInit) = .next t ∧
        (t.buf.read 255 == 0x5A) = true) ∧
    ∃ t, step (within [.host (.write .byte ((1 : BitVec 1) ++ (0 : Byte)) 0x5A)] afterInit) = .next t ∧
        (t.buf.read 0 == 0x5A) = true :=
  ⟨⟨rfl, exists_of_nextIs (by decide)⟩, exists_of_nextIs (by decide)⟩

theorem witness_CanonicalBuffersAreEqualWhenTheyReadAlike :
    Memory.wf [(0, 0x11), (255, 0x22)] = true ∧ Memory.wf (Memory.write (Memory.write [] 255 0x22) 0 0x11) = true ∧
    ∀ i, i < 256 → Memory.read [(0, 0x11), (255, 0x22)] i =
      Memory.read (Memory.write (Memory.write [] 255 0x22) 0 0x11) i :=
  ⟨by decide, by decide, fun _ _ => rfl⟩

theorem witness_FaultsAreExactlyTheBreachesWhileBusy :
    step (within [cmdWrite 0x00000003] (running .start1 .start)) = .fault .reentry ∧
    step (within [.host (.read .byte 0x100)] (running .start1 .start)) = .fault .bufferRace := ⟨rfl, rfl⟩

theorem witness_DisciplinedHostNeverFaults :
    ∀ k t, k < 2 →
      runSteps k (within [.host (.read .word 0x004), .bus startAns, .tick] (running .start1 .start)) = .next t →
      disciplined t = true := by
  intro k t hk h
  match k, hk with
  | 0, _ => cases h; decide
  | 1, _ => cases h; decide

theorem witness_HostCannotDisturbARunningCommand :
    (running .start1 .start).busy = true ∧
    ∃ t, step (within [.host (.read .word 0x004)] (running .start1 .start)) = .next t ∧
      (t.replies.length == 1) = true :=
  ⟨rfl, exists_of_nextIs (by decide)⟩

theorem witness_StartCompletes :
    (within (oneOperation startAns) afterInit).ready = true ∧
    (within (oneOperation startAns) afterInit).world = .tick :: .bus startAns :: [] := by decide
theorem witness_StopCompletes :
    (within (oneOperation stopAns) afterInitHeld).ready = true ∧
    (within (oneOperation stopAns) afterInitHeld).world = .tick :: .bus stopAns :: [] := by decide
theorem witness_PutCompletes :
    (within (oneOperation nack) afterInitHeld).ready = true ∧
    (within (oneOperation nack) afterInitHeld).world = .tick :: .bus nack :: [] := by decide
theorem witness_ReceiveCommandsComplete :
    (within (oneOperation (ans .other 0xFF)) afterInitHeld).ready = true ∧
    (within (oneOperation (ans .other 0xFF)) afterInitHeld).world = .tick :: .bus (ans .other 0xFF) :: [] := by decide

/-- Inside `exec`, and with a host that reads `STAT` between the issue and the completion. -/
theorem witness_PrimitiveFrame :
    (within (oneOperation nack) afterInitHeld).ready = true ∧
    (∃ t, exec (.put 0xA6) (within (oneOperation nack) afterInitHeld) = .next t ∧ (t.ac == 1) = true) ∧
    ∃ t, Reaches .getn (within [.tick, .host (.read .word 0x004), .bus ack] afterInitHeld) t ∧
      (!t.busy && t.replies.length == 1) = true :=
  ⟨by decide, exists_of_nextIs (by decide), commandRun_of_check (n := 3) (by decide)⟩

theorem witness_LengthZeroReturnsWithoutTouchingTheBus :
    (within [.tick] afterInit).ready = true ∧ (within [.tick] afterInit).cfg.legal = true ∧
    (within [.tick] afterInit).world = .tick :: [] := by decide

/-- One witness for each phase the statement speaks of. -/
theorem witness_ControllerTurnIssuesThePhasesOperation :
    (∀ p ∈ ([.start1, .addrW, .regAddr, .dataTx, .stopping, .enter] : List Phase),
      (running p .none).busy = true ∧ (running p .none).leOp = .none ∧ (running p .none).ph = p ∧
      nextIs (fun _ => true) (step (within [.tick] (running p .none))) = true) ∧
    (∀ p ∈ ([.start2, .addrR, .dataRx] : List Phase),
      (runningRead p .none).busy = true ∧ (runningRead p .none).leOp = .none ∧ (runningRead p .none).ph = p ∧
      nextIs (fun _ => true) (step (within [.tick] (runningRead p .none))) = true) ∧
    (∀ op ∈ ([2, 3, 4, 6, 7] : List (BitVec 4)),
      (runningPrimitive op .none).busy = true ∧ (runningPrimitive op .none).leOp = .none ∧
      (runningPrimitive op .none).ph = .prim ∧ (runningPrimitive op .none).dOp = op ∧
      nextIs (fun t => t.leOp != .none) (step (within [.tick] (runningPrimitive op .none))) = true) ∧
    (running .enter .none).cfg.legal = true ∧ { running .enter .none with dLen := 0 }.dLen = 0 := by decide

theorem witness_Start1RowsOfTheTable :
    (running .start1 .start).cfg.legal = true ∧
    (running .start1 .start).ph = .start1 ∧ (running .start1 .start).leOp = .start ∧
    (within [.bus stopAns] (running .start1 .start)).world = .bus stopAns :: [] := by decide
theorem witness_AddrWRowsOfTheTable :
    (running .addrW (.tx 0xA6)).cfg.legal = true ∧
    (running .addrW (.tx 0xA6)).ph = .addrW ∧ (running .addrW (.tx 0xA6)).leOp = .tx 0xA6 ∧
    (within [.bus nack] (running .addrW (.tx 0xA6))).world = .bus nack :: [] := by decide
theorem witness_RegAddrRowsOfTheTable :
    (running .regAddr (.tx 0x2D)).cfg.legal = true ∧
    (running .regAddr (.tx 0x2D)).ph = .regAddr ∧ (running .regAddr (.tx 0x2D)).leOp = .tx 0x2D ∧
    (within [.bus ack] (running .regAddr (.tx 0x2D))).world = .bus ack :: [] := by decide
theorem witness_ReadAddressRowsOfTheTable :
    (runningRead .start2 .start).cfg.legal = true ∧
    ((runningRead .start2 .start).ph = .start2 ∧ (runningRead .start2 .start).leOp = .start ∧
      (within [.bus rstartAns] (runningRead .start2 .start)).world = .bus rstartAns :: []) ∧
    ((runningRead .addrR (.tx 0xA7)).ph = .addrR ∧ (runningRead .addrR (.tx 0xA7)).leOp = .tx 0xA7 ∧
      (within [.bus nack] (runningRead .addrR (.tx 0xA7))).world = .bus nack :: []) := by decide
/-- At both ends: the only byte of a length of 1, and the first of the longest. -/
theorem witness_DataTxRowsOfTheTable :
    (running .dataTx (.tx 0)).cfg.legal = true ∧
    ((running .dataTx (.tx 0)).ph = .dataTx ∧ (running .dataTx (.tx 0)).leOp = .tx 0 ∧
      (running .dataTx (.tx 0)).idx.toNat < (running .dataTx (.tx 0)).dLen.toNat ∧
      (within [.bus ack] (running .dataTx (.tx 0))).world = .bus ack :: []) ∧
    ({ running .dataTx (.tx 0) with dLen := 255 }.idx.toNat < { running .dataTx (.tx 0) with dLen := 255 }.dLen.toNat) := by
  decide
theorem witness_DataRxRowsOfTheTable :
    (runningRead .dataRx (.rx true)).cfg.legal = true ∧
    (runningRead .dataRx (.rx true)).ph = .dataRx ∧ (runningRead .dataRx (.rx true)).leOp = .rx true ∧
    (runningRead .dataRx (.rx true)).buf.wf = true ∧
    (runningRead .dataRx (.rx true)).idx.toNat < (runningRead .dataRx (.rx true)).dLen.toNat ∧
    (within [.bus ack] (runningRead .dataRx (.rx true))).world = .bus ack :: [] := by decide
theorem witness_StoppingReturnsThePendingCode :
    (running .stopping .stop).ph = .stopping ∧ (running .stopping .stop).leOp = .stop ∧
    (within [.bus stopAns] (running .stopping .stop)).world = .bus stopAns :: [] := by decide
theorem witness_AddressAckIsFollowedByTheRegisterAddress :
    (running .addrW (.tx 0xA6)).busy = true ∧ (running .addrW (.tx 0xA6)).ph = .addrW ∧
    (running .addrW (.tx 0xA6)).leOp = .tx 0xA6 ∧ ack.status = .txAck ∧
    (within [.bus ack, .tick] (running .addrW (.tx 0xA6))).world = .bus ack :: .tick :: [] := by decide

theorem witness_WriteCompletesOnAnAcknowledgingBus :
    afterInit.ready = true ∧ afterInit.cfg.legal = true ∧ (1 : Byte) ≠ 0 ∧ startOk startAns.status = true ∧
    [ack, ack, ack].length = (1 : Byte).toNat + 2 ∧ ∀ a ∈ [ack, ack, ack], a.status = .txAck := by decide
theorem witness_ReadCompletesOnAnAcknowledgingBus :
    afterInit.ready = true ∧ afterInit.cfg.legal = true ∧ afterInit.buf.wf = true ∧ (2 : Byte) ≠ 0 ∧
    startOk startAns.status = true ∧ ack.status = .txAck ∧ startOk rstartAns.status = true ∧
    [ans .other 0x5A, ans .other 0xA5].length = (2 : Byte).toNat := by decide

/-- With the smallest bound, one attempt (V25), and with a bound of two attempts. -/
theorem witness_AddressExhaustionTakesExactlyMaxRestartsAttempts :
    ({ afterInit with cfg := withBound 1 }.ready = true ∧ (withBound 1).legal = true ∧ (1 : Byte) ≠ 0 ∧
      ([] : List (Answer × Answer)).length + 1 = { afterInit with cfg := withBound 1 }.cfg.maxRestarts.toNat ∧
      ∀ q ∈ (startAns, nack) :: [], startOk q.1.status = true ∧ q.2.status = .txNack) ∧
    ({ afterInit with cfg := withBound 2 }.ready = true ∧ (withBound 2).legal = true ∧ (255 : Byte) ≠ 0 ∧
      [(rstartAns, nack)].length + 1 = { afterInit with cfg := withBound 2 }.cfg.maxRestarts.toNat ∧
      ∀ q ∈ (startAns, nack) :: [(rstartAns, nack)], startOk q.1.status = true ∧ q.2.status = .txNack) := by decide
theorem witness_MixedExhaustionReturnsTheLastFailuresCode :
    { afterInit with cfg := withBound 2 }.ready = true ∧ (withBound 2).legal = true ∧ (1 : Byte) ≠ 0 ∧
    [Sum.inl (α := Answer) (β := Answer × Answer) stopAns].length + 1 =
      { afterInit with cfg := withBound 2 }.cfg.maxRestarts.toNat ∧
    ∀ x ∈ [Sum.inl (α := Answer) (β := Answer × Answer) stopAns] ++ [.inr (startAns, nack)], match x with
      | .inl a => startOk a.status = false
      | .inr q => startOk q.1.status = true ∧ q.2.status = .txNack := by
  refine ⟨by decide, by decide, by decide, by decide, ?_⟩
  simp [stopAns, startAns, nack, ans, startOk]

/-- A WRITE whose register address is rejected (V10). -/
def rejectedWrite : State := within (promptWorld [startAns, ack, nack, stopAns]) afterInit
/-- A READ of one byte that succeeds (V19). -/
def readOfOne : State :=
  within (promptWorld [startAns, ack, ack, rstartAns, ack, ans .other 0x5A, stopAns]) afterInit
/-- A READ whose Repeated Start fails (V17). -/
def readWithoutRepeatedStart : State := within (promptWorld [startAns, ack, ack, stopAns, stopAns]) afterInit

/-- The same WRITE and READ with a host that polls `STAT`: `exec` does not see their return, later steps do. -/
def polledWrite : State := within (polledWorld [startAns, ack, nack, stopAns]) afterInit
def polledRead : State :=
  within (polledWorld [startAns, ack, ack, rstartAns, ack, ans .other 0x5A, stopAns]) afterInit

theorem test_polled_write_does_not_return_in_exec :
    nextIs (fun t => t.busy) (exec (.write 0x53 1 0x2D) polledWrite) = true := by decide

theorem witness_StopIsIssuedOnceAndLast :
    (rejectedWrite.ready = true ∧ (1 : Byte) ≠ 0 ∧
      ∃ t, exec (.write 0x53 1 0x2D) rejectedWrite = .next t ∧ (!t.busy) = true) ∧
    (polledWrite.ready = true ∧ ∃ t, Reaches (.write 0x53 1 0x2D) polledWrite t ∧ (!t.busy && t.rc == 3) = true) :=
  ⟨⟨by decide, by decide, exists_of_nextIs (by decide)⟩, by decide, commandRun_of_check (n := 13) (by decide)⟩
theorem witness_StartAttemptsAreBounded :
    { rejectedWrite with cfg := withBound 1 }.ready = true ∧
    { rejectedWrite with cfg := withBound 1 }.cfg.legal = true ∧
    (∃ t, exec (.write 0x53 1 0x2D) { rejectedWrite with cfg := withBound 1 } = .next t ∧ (!t.busy) = true) ∧
    ∃ t, Reaches (.read 0x53 1 0x2D) { polledRead with cfg := withBound 1 } t ∧ (startAttempts t.trace == 2) = true :=
  ⟨by decide, by decide, exists_of_nextIs (by decide), commandRun_of_check (n := 16) (by decide)⟩
theorem witness_ReadAcknowledgesAllButTheLastByte :
    polledRead.ready = true ∧ polledRead.cfg.legal = true ∧ (1 : Byte) ≠ 0 ∧
    (∃ t, exec (.read 0x53 1 0x32) readOfOne = .next t ∧ (!t.busy && t.rc == 0) = true) ∧
    ∃ t, Reaches (.read 0x53 1 0x32) polledRead t ∧ (!t.busy && t.rc == 0) = true :=
  ⟨by decide, by decide, by decide, exists_of_nextIs (by decide), commandRun_of_check (n := 22) (by decide)⟩
theorem witness_ResultCodesByCommand :
    (polledWrite.ready = true ∧ polledWrite.cfg.legal = true ∧
      ∃ t, Reaches (.write 0x53 1 0x2D) polledWrite t ∧ (!t.busy && t.rc == 3) = true) ∧
    (readWithoutRepeatedStart.ready = true ∧ readWithoutRepeatedStart.cfg.legal = true ∧
      ∃ t, exec (.read 0x53 2 0x32) readWithoutRepeatedStart = .next t ∧ (!t.busy && t.rc == 5) = true) :=
  ⟨⟨by decide, by decide, commandRun_of_check (n := 13) (by decide)⟩, by decide, by decide,
    exists_of_nextIs (by decide)⟩
theorem witness_CompositeFrame :
    (polledWrite.ready = true ∧ polledWrite.cfg.legal = true ∧
      (∃ t, exec (.write 0x53 1 0x2D) rejectedWrite = .next t ∧ (!t.busy) = true) ∧
      ∃ t, Reaches (.write 0x53 1 0x2D) polledWrite t ∧ (!t.busy && t.replies.length == 4) = true) ∧
    (polledRead.ready = true ∧ ∃ t, Reaches (.read 0x53 1 0x32) polledRead t ∧ (!t.busy && t.rc == 0) = true) ∧
    (readWithoutRepeatedStart.ready = true ∧
      ∃ t, exec (.read 0x53 2 0x32) readWithoutRepeatedStart = .next t ∧ (!t.busy && t.rc != 0) = true) :=
  ⟨⟨by decide, by decide, exists_of_nextIs (by decide), commandRun_of_check (n := 13) (by decide)⟩,
    ⟨by decide, commandRun_of_check (n := 22) (by decide)⟩, by decide, exists_of_nextIs (by decide)⟩
theorem witness_ProceduresAgreeWithTheTable : afterInit.ready = true ∧ afterInit.cfg.legal = true := by decide

theorem witness_WriteThenReadRoundTrip :
    afterInit.ready = true ∧ afterInit.cfg.legal = true ∧ afterInit.buf.wf = true ∧ Memory.wf [] = true ∧
    (1 : Byte) ≠ 0 ∧ afterInit.world = [] ∧ 2 * (1 : Byte).toNat + 13 ≤ 15 ∧
    ∃ s1, exec (.write 0x53 1 0x1E) afterInit = .next s1 ∧ s1.busy = true :=
  ⟨by decide, by decide, by decide, by decide, by decide, by decide, by decide, exists_of_nextIs (by decide)⟩

theorem witness_WaitingControllerHasNoStep :
    (running .start1 .start).leOp ≠ .none ∧ (within [.tick] (running .start1 .start)).world = .tick :: [] ∧
    (afterInit.ph = .idle ∧ afterInit.busy = false ∧ (within [.tick] afterInit).world = .tick :: []) ∧
    ((running .start1 .none).leOp = .none ∧ (within [.bus ack] (running .start1 .none)).world = .bus ack :: []) ∧
    (running .start1 .start).world = [] := by decide

theorem witness_EveryStepKeepsTheInvariant :
    (within [.bus startAns] (running .start1 .start)).inv = true ∧
    ∃ t, step (within [.bus startAns] (running .start1 .start)) = .next t ∧ (t.ph == .addrW) = true :=
  ⟨by decide, exists_of_nextIs (by decide)⟩

theorem witness_ResetLeavesTheDecidedValues :
    (within [.reset someDraw] (running .start1 .start)).world = .reset someDraw :: [] ∧
    (0 < someDraw.bufBytes.length ∧ 0 < 256) := ⟨rfl, by decide⟩

theorem witness_OnlyInitAndResetWriteTheBusHandle :
    noResetNext (within [cmdWrite 0x00048001] State.reset) = true ∧
    ∃ t, step (within [cmdWrite 0x00048001] State.reset) = .next t ∧
      (t.en != State.reset.en || t.div != State.reset.div) = true := ⟨by decide, exists_of_nextIs (by decide)⟩

theorem witness_RetryChangesOnlyByItsLaw :
    ((running .enter .none).busy = true ∧ (running .enter .none).dLen ≠ 0 ∧
      ∃ t, step (within [.tick] (running .enter .none)) = .next t ∧ (t.retry == 20) = true) ∧
    (∃ t, step (within [.bus stopAns] (running .start1 .start)) = .next t ∧ (t.sr && t.retry == 19) = true) ∧
    (∃ t, step (within [.bus nack] (running .addrW (.tx 0xA6))) = .next t ∧ (t.ac == 1 && t.retry == 19) = true) ∧
    (∃ t, step (within [.host (.read .word 0x004)] (running .start1 .start)) = .next t ∧ (t.retry == 20) = true) ∧
    ∃ t, step (running .start1 .start) = .next t ∧ (t.retry == 20) = true :=
  ⟨⟨by decide, by decide, exists_of_nextIs (by decide)⟩, exists_of_nextIs (by decide), exists_of_nextIs (by decide),
    exists_of_nextIs (by decide), exists_of_nextIs (by decide)⟩

theorem witness_RunningCommandKeepsItsDescriptor :
    (running .addrW (.tx 0xA6)).busy = true ∧ noResetNext (within [.bus nack] (running .addrW (.tx 0xA6))) = true ∧
    ∃ t, step (within [.bus nack] (running .addrW (.tx 0xA6))) = .next t ∧ (t.ac == 1) = true :=
  ⟨rfl, by decide, exists_of_nextIs (by decide)⟩

theorem witness_ResultFieldsStayInTheirRange :
    (within [.bus nack] { running .addrW (.tx 0xA6) with shift := 0xA6 }).inv = true ∧
    noResetNext (within [.bus nack] (running .addrW (.tx 0xA6))) = true ∧
    ∃ t, step (within [.bus nack] { running .addrW (.tx 0xA6) with shift := 0xA6 }) = .next t ∧ (t.ac == 1) = true :=
  ⟨by decide, by decide, exists_of_nextIs (by decide)⟩

theorem witness_CompositesReturnFromTerminalStatesOnly :
    (within [.bus stopAns] { running .stopping .stop with rcp := 4 }).inv = true ∧
    (running .stopping .stop).busy = true ∧ (running .stopping .stop).ph ≠ .prim ∧ (running .stopping .stop).dLen ≠ 0 ∧
    noResetNext (within [.bus stopAns] (running .stopping .stop)) = true ∧
    ∃ t, step (within [.bus stopAns] { running .stopping .stop with rcp := 4 }) = .next t ∧
      (!t.busy && t.rc == 4) = true :=
  ⟨by decide, by decide, by decide, by decide, by decide, exists_of_nextIs (by decide)⟩

theorem witness_DivIsReadByNoRule :
    (∀ v, Instr.start ≠ .init v) ∧ (∃ rest, (within [.tick] (running .enter .none)).world = .tick :: rest) ∧
    ∃ a rest, (within [.bus ack] (running .start1 .start)).world = .bus a :: rest :=
  ⟨(by simp), ⟨[], rfl⟩, ack, [], rfl⟩

/-- `HELD` and the latches: the statement on steps of a running command. -/
theorem witness_HeldOnlyLabelsStarts :
    (∃ rest, (within [.tick] (running .start1 .none)).world = .tick :: rest) ∧
    ∃ a rest, (within [.bus startAns] (running .start1 .start)).world = .bus a :: rest := ⟨⟨[], rfl⟩, startAns, [], rfl⟩

theorem witness_PrimitiveCallsReturnTheirResult :
    (afterInit.ready = true ∧ ∀ d, Instr.write 0x53 1 0x2D ≠ .init d) ∧
    (within (oneOperation startAns) afterInit).ready = true ∧
    (within (oneOperation startAns) afterInit).world = .tick :: .bus startAns :: [] :=
  ⟨⟨by decide, by simp⟩, by decide, by decide⟩

theorem witness_BufferFillStoresTheCallsBytes :
    afterInit.busy = false ∧ afterInit.buf.wf = true ∧ ([0x11, 0x22, 0x33] : List Byte).length ≤ 256 := by decide

end Sys2Proof.Tests
end

section
/-! PROOFS. The invariant of the block: its parts, and that every step keeps it. -/

namespace Sys2Proof.Machine

/-! ### The parts of the invariant -/

theorem State.inv_iff (s : State) :
    s.inv = true ↔ s.cfg.legal = true ∧ s.buf.wf = true ∧ s.controlInv = true ∧ s.descriptorInv = true ∧
      s.counterInv = true ∧ opFitsPhase s = true ∧ latchesFitOp s = true := by
  simp [State.inv, and_assoc]

theorem State.controlInv_iff (s : State) :
    s.controlInv = true ↔ (s.busy = true ↔ s.ph ≠ .idle) ∧ (s.leOp ≠ .none → s.busy = true) ∧
      (s.busy = true → s.en = true) ∧ (s.held = true → s.en = true) := by
  cases hb : s.busy <;> cases he : s.en <;> cases hh : s.held <;> simp [State.controlInv, hb, he, hh]

theorem State.counterInv_iff (s : State) :
    s.counterInv = true ↔
      (s.ph.retryLoaded = true →
        0 < s.retry.toNat ∧ s.retry.toNat ≤ s.cfg.maxRestarts.toNat ∧ 0 < s.dLen.toNat) ∧
      (s.ph = .dataTx ∨ s.ph = .dataRx → s.idx.toNat < s.dLen.toNat) ∧
      (s.ph = .stopping → s.rcp.toNat ≤ 6) := by
  cases hp : s.ph <;> simp [State.counterInv, hp, Phase.retryLoaded, and_assoc]

/-- What the invariant says of a running command, the operation in flight and its latches left aside. -/
def State.commandInv (s : State) : Prop :=
  s.cfg.legal = true ∧ s.buf.wf = true ∧ s.ph ≠ .idle ∧ s.en = true ∧ s.descriptorInv = true ∧ s.counterInv = true

theorem State.inv_iff_of_busy {s : State} (hb : s.busy = true) :
    s.inv = true ↔ s.commandInv ∧ opFitsPhase s = true ∧ latchesFitOp s = true := by
  simp only [State.inv_iff, State.controlInv_iff, State.commandInv, hb]
  tauto

/-- Between two bus operations the invariant of a running command is that of its command alone. -/
theorem State.inv_iff_of_running {s : State} (hb : s.busy = true) (hl : s.leOp = .none) :
    s.inv = true ↔ s.commandInv := by
  simp [State.inv_iff_of_busy hb, opFitsPhase, latchesFitOp, hl]

/-- In an idle block the invariant asks nothing of the descriptor, the counters and the latches. -/
theorem State.inv_iff_of_not_busy {s : State} (hb : s.busy = false) :
    s.inv = true ↔ s.cfg.legal = true ∧ s.buf.wf = true ∧ s.ph = .idle ∧ s.leOp = .none ∧
      (s.held = true → s.en = true) := by
  by_cases hp : s.ph = .idle <;> by_cases hl : s.leOp = .none <;>
    simp [State.inv_iff, State.controlInv_iff, State.descriptorInv, State.counterInv_iff, Phase.retryLoaded,
      opFitsPhase, latchesFitOp, hb, hp, hl]

/-! ### A turn keeps the invariant -/

section
variable {s : State} (h : s.commandInv) (hb : s.busy = true)
include h hb

theorem startIssue_inv (hfit : opFitsPhase (startIssue s) = true) : (startIssue s).inv = true :=
  (State.inv_iff_of_busy (s := startIssue s) hb).mpr ⟨h, hfit, rfl⟩

theorem stopIssue_inv (hfit : opFitsPhase (stopIssue s) = true) : (stopIssue s).inv = true :=
  (State.inv_iff_of_busy (s := stopIssue s) hb).mpr ⟨h, hfit, rfl⟩

theorem putIssue_inv {b : Byte} (hfit : opFitsPhase (putIssue b s) = true) : (putIssue b s).inv = true :=
  (State.inv_iff_of_busy (s := putIssue b s) hb).mpr ⟨h, hfit, by simp [latchesFitOp, putIssue]⟩

theorem getIssue_inv {a : Bool} (hfit : opFitsPhase (getIssue a s) = true) : (getIssue a s).inv = true :=
  (State.inv_iff_of_busy (s := getIssue a s) hb).mpr ⟨h, hfit, by simp [latchesFitOp, getIssue]⟩

/-- A primitive issues the operation its opcode names. -/
theorem primitiveTurn_inv (hl : s.leOp = .none) (hp : s.ph = .prim) : (primitiveTurn s).inv = true := by
  unfold primitiveTurn
  split_ifs with h1 h2 h3 h4 h5
  · exact startIssue_inv h hb (by simp [opFitsPhase, startIssue, hp, h1])
  · exact stopIssue_inv h hb (by simp [opFitsPhase, stopIssue, hp, h2])
  · exact putIssue_inv h hb (by simp [opFitsPhase, putIssue, hp, h3])
  · exact getIssue_inv h hb (by simp [opFitsPhase, getIssue, hp, h4])
  · exact getIssue_inv h hb (by simp [opFitsPhase, getIssue, hp, h5])
  · exact (State.inv_iff_of_running hb hl).mpr h

/-- `ENTER` returns at length 0, and else loads the counter with a legal bound. -/
theorem enterTurn_inv (hl : s.leOp = .none) (hp : s.ph = .enter) : (enterTurn s).inv = true := by
  obtain ⟨hcfg, hbuf, -, hen, hdesc, hcnt⟩ := h
  unfold enterTurn
  split_ifs with hlen
  · exact (State.inv_iff_of_not_busy (s := s.returnCode _) rfl).mpr ⟨hcfg, hbuf, rfl, hl, fun _ => hen⟩
  · refine (State.inv_iff_of_running (s := { s with retry := s.cfg.maxRestarts, ph := .start1 }) hb hl).mpr
      ⟨hcfg, hbuf, by simp, hen, by simpa [State.descriptorInv, hp] using hdesc, ?_⟩
    simp [State.counterInv_iff, Config.maxRestarts_pos hcfg, byte_pos_of_ne_zero hlen]

theorem phaseTurn_inv (hl : s.leOp = .none) : (phaseTurn s).inv = true := by
  obtain ⟨-, -, hrunning, -⟩ := id h
  unfold phaseTurn
  cases hp : s.ph with
  | idle => exact absurd hp hrunning
  | enter => exact enterTurn_inv h hb hl hp
  | start1 => exact startIssue_inv h hb (by simp [opFitsPhase, startIssue, hp])
  | addrW => exact putIssue_inv h hb (by simp [opFitsPhase, putIssue, hp])
  | regAddr => exact putIssue_inv h hb (by simp [opFitsPhase, putIssue, hp])
  | start2 => exact startIssue_inv h hb (by simp [opFitsPhase, startIssue, hp])
  | addrR => exact putIssue_inv h hb (by simp [opFitsPhase, putIssue, hp])
  | dataTx => exact putIssue_inv h hb (by simp [opFitsPhase, putIssue, hp])
  | dataRx => exact getIssue_inv h hb (by simp [opFitsPhase, getIssue, moreToCome, hp])
  | stopping => exact stopIssue_inv h hb (by simp [opFitsPhase, stopIssue, hp])
  | prim => exact primitiveTurn_inv h hb hl hp

end

theorem controllerTurn_inv {s : State} (h : s.inv = true) : (controllerTurn s).inv = true := by
  unfold controllerTurn
  split_ifs with hturn
  · simp only [Bool.and_eq_true, decide_eq_true_eq] at hturn
    obtain ⟨hb, hl⟩ := hturn
    exact phaseTurn_inv ((State.inv_iff_of_running hb hl).mp h) hb hl
  · exact h

/-! ### A completion keeps the invariant -/

theorem State.commandInv.descriptor {s : State} (h : s.commandInv) : s.descriptorInv = true := by
  obtain ⟨-, -, -, -, hd, -⟩ := h
  exact hd

/-- Where the retry counter is loaded a composite runs. -/
theorem State.commandInv.composite {s : State} (h : s.commandInv) (hs : s.ph.retryLoaded = true) :
    isCompositeOp s.dOp s.dDir = true := by
  replace h := h.descriptor
  unfold State.descriptorInv at h
  cases hph : s.ph <;> simp only [hph, Phase.retryLoaded, Bool.and_eq_true, Bool.false_eq_true] at h hs
  case start1 | addrW | regAddr => exact h
  case start2 | addrR | dataTx | dataRx => exact h.1

/-- The counter and the length in a phase of the retry loop or after it. -/
theorem State.commandInv.loaded {s : State} (h : s.commandInv) (hs : s.ph.retryLoaded = true) :
    0 < s.retry.toNat ∧ s.retry.toNat ≤ s.cfg.maxRestarts.toNat ∧ 0 < s.dLen.toNat := by
  obtain ⟨-, -, -, -, -, hcnt⟩ := h
  obtain ⟨hloaded, -⟩ := (State.counterInv_iff s).mp hcnt
  exact hloaded hs

/-- Whatever the counters hold, a composite that decides its result enters `STOPPING` with a legal code. -/
theorem decideResult_inv {s : State} (c : ResultCode) (hcfg : s.cfg.legal = true) (hbuf : s.buf.wf = true)
    (hen : s.en = true) (hop : isCompositeOp s.dOp s.dDir = true) (hb : s.busy = true) (hl : s.leOp = .none) :
    (s.decideResult c).inv = true :=
  (State.inv_iff_of_running (s := s.decideResult c) hb hl).mpr
    ⟨hcfg, hbuf, by simp, hen, hop, by
      simp [State.counterInv_iff, Phase.retryLoaded, ResultCode.code_le_six hcfg]⟩

theorem State.commandInv.len_pos {s : State} (h : s.commandInv) (hs : s.ph.retryLoaded = true) :
    0 < s.dLen.toNat := by
  obtain ⟨-, -, hlen⟩ := h.loaded hs
  exact hlen

section
variable {s : State} (h : s.commandInv) (hb : s.busy = true) (hl : s.leOp = .none) (hs : s.ph.retryLoaded = true)
include h hb hl hs

theorem decideResult_inv_of_loaded (c : ResultCode) : (s.decideResult c).inv = true := by
  have hop := h.composite hs
  obtain ⟨hcfg, hbuf, -, hen, -, -⟩ := h
  exact decideResult_inv c hcfg hbuf hen hop hb hl

/-- From one phase with the counter loaded to another: what is left to show is that the descriptor fits the new phase,
and that the index is in range in a data phase. -/
theorem moveTo_inv {i : Byte} {p : Phase} (hp : p.retryLoaded = true)
    (hd : State.descriptorInv { s with idx := i, ph := p } = true)
    (hidx : p = .dataTx ∨ p = .dataRx → i.toNat < s.dLen.toNat) :
    State.inv { s with idx := i, ph := p } = true := by
  have hloaded := h.loaded hs
  obtain ⟨hcfg, hbuf, -, hen, -, -⟩ := h
  refine (State.inv_iff_of_running (s := { s with idx := i, ph := p }) hb hl).mpr
    ⟨hcfg, hbuf, ?_, hen, hd, (State.counterInv_iff _).mpr ⟨fun _ => hloaded, hidx, ?_⟩⟩
  · rintro rfl
    cases hp
  · rintro rfl
    cases hp

/-- A failed attempt keeps the counter in its range, or gives up. -/
theorem retryOrGiveUp_inv (c : ResultCode) : (retryOrGiveUp c s).inv = true := by
  have hop := h.composite hs
  obtain ⟨hpos, hmax, hlen⟩ := h.loaded hs
  obtain ⟨hcfg, hbuf, -, hen, -, -⟩ := h
  unfold retryOrGiveUp
  split_ifs with h0
  · exact decideResult_inv (s := { s with retry := 0 }) c hcfg hbuf hen hop hb hl
  · obtain ⟨hpos', hmax'⟩ := retry_after_attempt hpos hmax h0
    exact (State.inv_iff_of_running (s := { s with retry := s.retry - 1, ph := .start1 }) hb hl).mpr
      ⟨hcfg, hbuf, by simp, hen, hop, (State.counterInv_iff _).mpr ⟨fun _ => ⟨hpos', hmax', hlen⟩, by simp, by simp⟩⟩

end

/-! The rows of each phase (R132). -/

/-- A command that returns leaves an idle block. -/
theorem returnCode_inv {s : State} (h : s.commandInv) (hl : s.leOp = .none) (c : BitVec 4) :
    (s.returnCode c).inv = true := by
  obtain ⟨hcfg, hbuf, -, hen, -, -⟩ := h
  exact (State.inv_iff_of_not_busy (s := s.returnCode c) rfl).mpr ⟨hcfg, hbuf, rfl, hl, fun _ => hen⟩

theorem returnPrimitive_inv {s : State} (h : s.commandInv) (hl : s.leOp = .none) : s.returnPrimitive.inv = true := by
  obtain ⟨hcfg, hbuf, -, hen, -, -⟩ := h
  exact (State.inv_iff_of_not_busy (s := s.returnPrimitive) rfl).mpr ⟨hcfg, hbuf, rfl, hl, fun _ => hen⟩

section
variable {s : State} (h : s.commandInv) (hb : s.busy = true) (hl : s.leOp = .none)
include h hb hl

theorem afterStart1_inv (hp : s.ph = .start1) : (afterStart1 s).inv = true := by
  have hs : s.ph.retryLoaded = true := by rw [hp]; rfl
  unfold afterStart1
  split_ifs
  · exact moveTo_inv (i := s.idx) h hb hl hs rfl (h.composite hs) (by simp)
  · exact retryOrGiveUp_inv h hb hl hs _

theorem afterAddrW_inv (hp : s.ph = .addrW) : (afterAddrW s).inv = true := by
  have hs : s.ph.retryLoaded = true := by rw [hp]; rfl
  unfold afterAddrW
  split_ifs
  · exact moveTo_inv (i := s.idx) h hb hl hs rfl (h.composite hs) (by simp)
  · exact retryOrGiveUp_inv h hb hl hs _
  · exact decideResult_inv_of_loaded h hb hl hs _

/-- The direction latched chooses between a phase only a READ enters and the data phase of a WRITE. -/
theorem afterRegAddr_inv (hp : s.ph = .regAddr) : (afterRegAddr s).inv = true := by
  have hs : s.ph.retryLoaded = true := by rw [hp]; rfl
  have hop := h.composite hs
  unfold afterRegAddr
  split_ifs with hack hdir
  · exact moveTo_inv (i := s.idx) h hb hl hs rfl (by simpa [State.descriptorInv, hdir] using hop) (by simp)
  · exact moveTo_inv h hb hl hs rfl (by simpa [State.descriptorInv, hdir] using hop) (fun _ => h.len_pos hs)
  · exact decideResult_inv_of_loaded h hb hl hs _
  · exact decideResult_inv_of_loaded h hb hl hs _

theorem afterStart2_inv (hp : s.ph = .start2) : (afterStart2 s).inv = true := by
  have hs : s.ph.retryLoaded = true := by rw [hp]; rfl
  unfold afterStart2
  split_ifs
  · exact moveTo_inv (i := s.idx) h hb hl hs rfl (by simpa [State.descriptorInv, hp] using h.descriptor) (by simp)
  · exact decideResult_inv_of_loaded h hb hl hs _

theorem afterAddrR_inv (hp : s.ph = .addrR) : (afterAddrR s).inv = true := by
  have hs : s.ph.retryLoaded = true := by rw [hp]; rfl
  unfold afterAddrR
  split_ifs
  · exact moveTo_inv h hb hl hs rfl (by simpa [State.descriptorInv, hp] using h.descriptor) (fun _ => h.len_pos hs)
  · exact decideResult_inv_of_loaded h hb hl hs _

/-- A data phase goes on to the next byte while one is left, and then decides that all went well. -/
theorem nextByte_inv (hs : s.ph.retryLoaded = true) :
    (if s.idx.toNat + 1 < s.dLen.toNat then { s with idx := s.idx + 1 }
      else { s with idx := s.idx + 1 }.decideResult .ok : State).inv = true := by
  have hop := h.composite hs
  split_ifs with hmore
  · exact moveTo_inv h hb hl hs hs h.descriptor (fun _ => by rw [idx_add_one hmore]; exact hmore)
  · obtain ⟨hcfg, hbuf, -, hen, -, -⟩ := h
    exact decideResult_inv (s := { s with idx := s.idx + 1 }) _ hcfg hbuf hen hop hb hl

theorem afterDataTx_inv (hp : s.ph = .dataTx) : (afterDataTx s).inv = true := by
  have hs : s.ph.retryLoaded = true := by rw [hp]; rfl
  unfold afterDataTx
  split
  · exact nextByte_inv h hb hl hs
  · split_ifs
    · exact decideResult_inv_of_loaded h hb hl hs _
    · exact decideResult_inv_of_loaded h hb hl hs _

/-- Storing the byte received keeps the buffer canonical: its index is one of the buffer's 256. -/
theorem afterDataRx_inv (hp : s.ph = .dataRx) : (afterDataRx s).inv = true := by
  have hs : s.ph.retryLoaded = true := by rw [hp]; rfl
  obtain ⟨hcfg, hbuf, hrest⟩ := h
  exact nextByte_inv (s := storeData s) ⟨hcfg, Memory.wf_write _ hbuf s.idx.isLt, hrest⟩ hb hl hs

theorem afterOperation_inv : (afterOperation s).inv = true := by
  unfold afterOperation
  cases hp : s.ph with
  | idle => exact (State.inv_iff_of_running hb hl).mpr h
  | enter => exact (State.inv_iff_of_running hb hl).mpr h
  | start1 => exact afterStart1_inv h hb hl hp
  | addrW => exact afterAddrW_inv h hb hl hp
  | regAddr => exact afterRegAddr_inv h hb hl hp
  | start2 => exact afterStart2_inv h hb hl hp
  | addrR => exact afterAddrR_inv h hb hl hp
  | dataTx => exact afterDataTx_inv h hb hl hp
  | dataRx => exact afterDataRx_inv h hb hl hp
  | stopping => exact returnCode_inv h hl _
  | prim => exact returnPrimitive_inv h hl

end

/-- While an operation is in flight a command runs, and its own invariant holds. -/
theorem State.inv_of_inFlight {s : State} (h : s.inv = true) (hl : s.leOp ≠ .none) :
    s.busy = true ∧ s.commandInv := by
  obtain ⟨-, -, hctl, -⟩ := (State.inv_iff s).mp h
  obtain ⟨-, hinFlight, -⟩ := (State.controlInv_iff s).mp hctl
  have hb := hinFlight hl
  exact ⟨hb, ((State.inv_iff_of_busy hb).mp h).1⟩

/-! The procedures write no element the command's invariant speaks of. -/

theorem startDone_commandInv {s : State} (ans : Answer) (h : s.commandInv) : (startDone ans s).commandInv := by
  simpa [State.commandInv, State.descriptorInv, State.counterInv_iff, startDone] using h

theorem stopDone_commandInv {s : State} (ans : Answer) (h : s.commandInv) : (stopDone ans s).commandInv := by
  simpa [State.commandInv, State.descriptorInv, State.counterInv_iff, stopDone] using h

theorem putDone_commandInv {s : State} (b : Byte) (ans : Answer) (h : s.commandInv) : (putDone b ans s).commandInv := by
  simpa [State.commandInv, State.descriptorInv, State.counterInv_iff, putDone] using h

theorem getDone_commandInv {s : State} (a : Bool) (ans : Answer) (h : s.commandInv) : (getDone a ans s).commandInv := by
  simpa [State.commandInv, State.descriptorInv, State.counterInv_iff, getDone] using h

/-- The rest of the procedure ends the operation in flight; what the sequencer does next keeps the invariant. -/
theorem busCompletes_inv {s : State} (ans : Answer) (h : s.inv = true) : (busCompletes ans s).inv = true := by
  by_cases hl : s.leOp = .none
  · simpa [busCompletes, hl] using h
  · obtain ⟨hb, hc⟩ := State.inv_of_inFlight h hl
    unfold busCompletes
    split
    · exact h
    · exact afterOperation_inv (startDone_commandInv ans hc) hb rfl
    · exact afterOperation_inv (stopDone_commandInv ans hc) hb rfl
    · exact afterOperation_inv (putDone_commandInv _ ans hc) hb rfl
    · exact afterOperation_inv (getDone_commandInv _ ans hc) hb rfl

/-! ### Acceptance, host accesses and reset keep the invariant -/

/-- The state in which a command other than INIT has been accepted and taken no step (R69). -/
def State.accept (i : Instr) (s : State) : State :=
  { s.latch (descriptorOf i) with busy := true, ph := firstPhase i }

theorem accept_inv {s : State} {i : Instr} (h : s.inv = true) (hb : s.busy = false) (hen : s.en = true)
    (hi : ∀ d, i ≠ .init d) : (s.accept i).inv = true := by
  obtain ⟨hcfg, hbuf, -, hl, -⟩ := (State.inv_iff_of_not_busy hb).mp h
  refine (State.inv_iff_of_running (s := s.accept i) rfl hl).mpr ⟨hcfg, hbuf, ?_⟩
  cases i with
  | init d => exact absurd rfl (hi d)
  | write | read =>
    exact ⟨by simp [State.accept, firstPhase], hen,
      by simp [State.descriptorInv, State.accept, firstPhase, isCompositeOp, descriptorOf, Instr.opcode],
      by simp [State.counterInv_iff, State.accept, firstPhase, Phase.retryLoaded]⟩
  | start | stop | put | getn | geta =>
    exact ⟨by simp [State.accept, firstPhase], hen,
      by simp [State.descriptorInv, State.accept, firstPhase, isPrimitiveOp, descriptorOf, Instr.opcode],
      by simp [State.counterInv_iff, State.accept, firstPhase, Phase.retryLoaded]⟩

theorem exec_inv {s t : State} {i : Instr} (h : s.inv = true) (ht : exec i s = .next t) : t.inv = true := by
  obtain ⟨hb, ⟨d, rfl, -, rfl⟩ | ⟨hi, hen, rfl⟩⟩ := exec_eq_next ht
  · obtain ⟨hcfg, hbuf, hp, hl, -⟩ := (State.inv_iff_of_not_busy hb).mp h
    exact (State.inv_iff_of_not_busy (s := { s.latch (descriptorOf (.init d)) with div := d, en := true }) hb).mpr
      ⟨hcfg, hbuf, hp, hl, fun _ => rfl⟩
  · exact runController_keeps (fun u => u.inv = true) s.world (s.accept i) (accept_inv h hb hen hi)
      (fun _ _ hu => hu) (fun _ _ hu => controllerTurn_inv hu) (fun _ a _ hu => busCompletes_inv a hu)

theorem strikeReset_inv {s : State} (draw : ResetDraw) (h : s.inv = true) : (s.strikeReset draw).inv = true := by
  obtain ⟨hcfg, -⟩ := (State.inv_iff s).mp h
  exact (State.inv_iff_of_not_busy (s := s.strikeReset draw) rfl).mpr
    ⟨hcfg, Memory.wf_fill _ _ Memory.wf_nil, rfl, rfl, by simp⟩

/-- The host writes a byte of the window, whose 9-bit offsets end with the buffer. -/
theorem hostByte_inv {s : State} {off : Offset} {v : Byte} (h : s.inv = true) (hb : s.busy = false) :
    State.inv { s with buf := s.buf.write (off.toNat - 256) v } = true := by
  obtain ⟨hcfg, hbuf, hp, hl, hh⟩ := (State.inv_iff_of_not_busy hb).mp h
  have hoff := off.isLt
  exact (State.inv_iff_of_not_busy (s := { s with buf := s.buf.write (off.toNat - 256) v }) hb).mpr
    ⟨hcfg, Memory.wf_write _ hbuf (by omega), hp, hl, hh⟩

/-- Settles O48, by what the step was: a turn, a completion, a reset, a host access or an accepted command. -/
theorem everyStepKeepsTheInvariant : Obligations.EveryStepKeepsTheInvariant := by
  intro s t h hstep
  rcases step_eq_next hstep with ⟨-, rfl⟩ | ⟨rest, -, rfl⟩ | ⟨a, rest, -, rfl⟩ | ⟨d, rest, -, rfl⟩ |
    ⟨-, -, v, rest, -, rfl⟩ | ⟨off, value, rest, -, hb, -, rfl⟩ | ⟨-, i, rest, -, -, -, hexec⟩
  · exact h
  · exact controllerTurn_inv (s := { s with world := rest }) h
  · exact busCompletes_inv (s := { s with world := rest }) a h
  · exact strikeReset_inv (s := { s with world := rest }) d h
  · exact h
  · exact hostByte_inv (s := { s with world := rest }) h hb
  · exact exec_inv (s := { s with world := rest }) h hexec

/-- Settles O49: reset decides every element the invariant of an idle block speaks of. -/
theorem invariantHoldsAtReset : Obligations.InvariantHoldsAtReset :=
  (State.inv_iff_of_not_busy (s := State.reset) rfl).mpr ⟨Config.hardware_legal, rfl, rfl, rfl, by decide⟩

end Sys2Proof.Machine
end

section
/-! PROOFS. What a turn and a completion write of the counters and the result fields, and the statements about single
elements of the state that follow. -/

namespace Sys2Proof.Machine

/-! ### What a turn does -/

/-- `u` differs from `s` in the line engine's elements at most, `HWSTAT` not among them: what an issue writes (R21). -/
def State.LineOnly (s u : State) : Prop :=
  ∃ op d b a, u = { s with leOp := op, done := d, shift := b, ackPol := a }

theorem lineOnly_refl (s : State) : s.LineOnly s := ⟨s.leOp, s.done, s.shift, s.ackPol, rfl⟩

theorem lineOnly_startIssue (s : State) : s.LineOnly (startIssue s) := ⟨.start, false, s.shift, s.ackPol, rfl⟩

theorem lineOnly_stopIssue (s : State) : s.LineOnly (stopIssue s) := ⟨.stop, false, s.shift, s.ackPol, rfl⟩

theorem lineOnly_putIssue (b : Byte) (s : State) : s.LineOnly (putIssue b s) := ⟨.tx b, false, b, s.ackPol, rfl⟩

theorem lineOnly_getIssue (a : Bool) (s : State) : s.LineOnly (getIssue a s) := ⟨.rx a, false, s.shift, a, rfl⟩

theorem lineOnly_primitiveTurn (s : State) : s.LineOnly (primitiveTurn s) := by
  unfold primitiveTurn
  split_ifs
  · exact lineOnly_startIssue s
  · exact lineOnly_stopIssue s
  · exact lineOnly_putIssue _ s
  · exact lineOnly_getIssue _ s
  · exact lineOnly_getIssue _ s
  · exact lineOnly_refl s

/-- Outside `ENTER` a turn issues at most. -/
theorem lineOnly_phaseTurn {s : State} (h : s.ph ≠ .enter) : s.LineOnly (phaseTurn s) := by
  unfold phaseTurn
  cases hp : s.ph with
  | idle => exact lineOnly_refl s
  | enter => exact absurd hp h
  | start1 => exact lineOnly_startIssue s
  | addrW => exact lineOnly_putIssue _ s
  | regAddr => exact lineOnly_putIssue _ s
  | start2 => exact lineOnly_startIssue s
  | addrR => exact lineOnly_putIssue _ s
  | dataTx => exact lineOnly_putIssue _ s
  | dataRx => exact lineOnly_getIssue _ s
  | stopping => exact lineOnly_stopIssue s
  | prim => exact lineOnly_primitiveTurn s

/-- The controller is due to perform `ENTER` (R132). -/
abbrev State.entering (s : State) : Prop := s.busy = true ∧ s.leOp = .none ∧ s.ph = .enter

/-- Everything a turn of the controller can do: the two outcomes of `ENTER`, or the issue of a bus operation at most. -/
theorem controllerTurn_cases (s : State) :
    (s.entering ∧ s.dLen = 0 ∧ controllerTurn s = s.returnCode (ResultCode.ok.code s.cfg)) ∨
    (s.entering ∧ s.dLen ≠ 0 ∧ controllerTurn s = { s with retry := s.cfg.maxRestarts, ph := .start1 }) ∨
    (¬ s.entering ∧ s.LineOnly (controllerTurn s)) := by
  by_cases he : s.entering
  · obtain ⟨hb, hl, hp⟩ := id he
    have hturn : controllerTurn s = enterTurn s := by simp [controllerTurn, phaseTurn, hb, hl, hp]
    by_cases hlen : s.dLen = 0
    · exact .inl ⟨he, hlen, hturn.trans (if_pos hlen)⟩
    · exact .inr (.inl ⟨he, hlen, hturn.trans (if_neg hlen)⟩)
  · refine .inr (.inr ⟨he, ?_⟩)
    unfold controllerTurn
    split_ifs with hturn
    · simp only [Bool.and_eq_true, decide_eq_true_eq] at hturn
      exact lineOnly_phaseTurn fun hp => he ⟨hturn.1, hturn.2, hp⟩
    · exact lineOnly_refl s

/-! ### What the sequencer and a completion write -/

/-- A failed attempt decrements the counter, whether the command gives up or not (R125). -/
@[simp] theorem retryOrGiveUp_retry (c : ResultCode) (s : State) : (retryOrGiveUp c s).retry = s.retry - 1 := by
  unfold retryOrGiveUp
  split_ifs with h
  · exact h.symm
  · rfl

@[simp] theorem retryOrGiveUp_rc (c : ResultCode) (s : State) : (retryOrGiveUp c s).rc = s.rc := by
  unfold retryOrGiveUp; split <;> rfl

@[simp] theorem retryOrGiveUp_busy (c : ResultCode) (s : State) : (retryOrGiveUp c s).busy = s.busy := by
  unfold retryOrGiveUp; split <;> rfl

theorem afterOperation_retry (s : State) :
    (afterOperation s).retry =
      if (s.ph = .start1 ∧ s.sr = true) ∨ (s.ph = .addrW ∧ s.ac = 1) then s.retry - 1 else s.retry := by
  unfold afterOperation
  cases hp : s.ph with
  | start1 => cases hsr : s.sr <;> simp [afterStart1, hsr]
  | addrW =>
    unfold afterAddrW
    split_ifs with hack hnack <;> simp_all [AckClass.code]
  | regAddr => simp only [afterRegAddr]; split_ifs <;> simp_all
  | start2 => simp only [afterStart2]; split_ifs <;> simp_all
  | addrR => simp only [afterAddrR]; split_ifs <;> simp_all
  | dataTx => simp only [afterDataTx]; split_ifs <;> simp_all
  | dataRx => simp only [afterDataRx, storeData]; split_ifs <;> simp_all
  | idle | enter | stopping | prim => simp

theorem afterOperation_rc (s : State) : (afterOperation s).rc = if s.ph = .stopping then s.rcp else s.rc := by
  unfold afterOperation afterStart1 afterAddrW afterRegAddr afterStart2 afterAddrR afterDataTx afterDataRx storeData
  repeat' split
  all_goals simp_all

theorem afterOperation_busy (s : State) :
    (afterOperation s).busy = if s.ph = .stopping ∨ s.ph = .prim then false else s.busy := by
  unfold afterOperation afterStart1 afterAddrW afterRegAddr afterStart2 afterAddrR afterDataTx afterDataRx storeData
  repeat' split
  all_goals simp_all


/-! A completion with an operation in flight. -/

theorem busCompletes_of_none {s : State} (ans : Answer) (hl : s.leOp = .none) : busCompletes ans s = s := by
  simp [busCompletes, hl]

section
variable {s : State} (ans : Answer) (hl : s.leOp ≠ .none)
include hl

theorem busCompletes_retry : (busCompletes ans s).retry =
    if (s.ph = .start1 ∧ (busCompletes ans s).sr = true) ∨ (s.ph = .addrW ∧ (busCompletes ans s).ac = 1)
      then s.retry - 1 else s.retry := by
  unfold busCompletes
  split
  · contradiction
  all_goals simp only [afterOperation_retry, afterOperation_sr, afterOperation_ac]; rfl

theorem busCompletes_rc : (busCompletes ans s).rc = if s.ph = .stopping then s.rcp else s.rc := by
  unfold busCompletes
  split
  · contradiction
  all_goals rw [afterOperation_rc]; rfl

theorem busCompletes_busy :
    (busCompletes ans s).busy = if s.ph = .stopping ∨ s.ph = .prim then false else s.busy := by
  unfold busCompletes
  split
  · contradiction
  all_goals rw [afterOperation_busy]; rfl

end

/-- A completion leaves `AC` or writes a class (R101). -/
theorem busCompletes_ac (ans : Answer) (s : State) :
    (busCompletes ans s).ac = s.ac ∨ (busCompletes ans s).ac = (ackClass ans.status).code := by
  unfold busCompletes
  split
  all_goals simp [startDone, stopDone, putDone, getDone]

theorem AckClass.code_le_four (c : AckClass) : c.code.toNat ≤ 4 := by
  cases c <;> decide

/-! ### The descriptor -/

/-- Settles O53: while a command runs a step is a host's read, a turn or a completion, and none of them latches. -/
theorem runningCommandKeepsItsDescriptor : Obligations.RunningCommandKeepsItsDescriptor := by
  intro s t hb hr hstep
  rcases step_busy_eq_next hb hr hstep with ⟨w, vs, rfl⟩ | ⟨w, rfl⟩ | ⟨w, a, rfl⟩
  · exact ⟨rfl, rfl, rfl, rfl, rfl, rfl⟩
  · simp
  · simp

/-! ### `RETRY` -/

theorem controllerTurn_retry (s : State) :
    (controllerTurn s).retry = if s.entering ∧ s.dLen ≠ 0 then s.cfg.maxRestarts else s.retry := by
  rcases controllerTurn_cases s with ⟨-, hlen, heq⟩ | ⟨he, hlen, heq⟩ | ⟨he, op, d, b, a, heq⟩
  · rw [heq, if_neg (fun h => h.2 hlen), State.returnCode_retry]
  · rw [heq, if_pos ⟨he, hlen⟩]
  · rw [heq, if_neg (fun h => he h.1)]

/-- A host access that is no accepted command keeps the counter. -/
theorem hostAccess_retry {a : HostAccess} {s t : State} {rest : List Stimulus} (hw : s.world = .host a :: rest)
    (hcmd : ∀ w, a = .write .word offCmd w → s.busy = true) (hstep : step s = .next t) : t.retry = s.retry := by
  rw [step_host hw] at hstep
  cases a with
  | read width off =>
    obtain ⟨v, rfl⟩ := hostRead_eq_next hstep
    rfl
  | write width off value =>
    obtain ⟨hb, ⟨rfl, rfl, -⟩ | ⟨-, -, rfl⟩⟩ := hostWrite_eq_next hstep
    · exact absurd (hcmd value rfl) (by simpa using hb)
    · rfl

/-- Settles O52, by the retry laws of a turn, of a completion and of a host access. -/
theorem retryChangesOnlyByItsLaw : Obligations.RetryChangesOnlyByItsLaw := by
  intro s t hstep
  refine ⟨fun rest hw => ?_, fun ans rest hw => ?_, fun a rest hw hcmd => hostAccess_retry hw hcmd hstep, fun hw => ?_⟩
  · rw [step_tick hw] at hstep
    cases hstep
    simp [controllerTurn_retry, State.entering, and_assoc]
  · rw [step_bus hw] at hstep
    cases hstep
    by_cases hl : s.leOp = .none
    · rw [busCompletes_of_none ans (by exact hl)]
      simp [hl]
    · rw [busCompletes_retry ans (by exact hl)]
      simp [hl]
  · rw [step_nil hw] at hstep
    cases hstep
    rfl

/-! ### `RC` and `AC` -/

/-- `RC` and `AC` of `t` are those of `s` or have values the spec gives (R20, R170). -/
def State.ResultsInRange (s t : State) : Prop :=
  (t.rc = s.rc ∨ t.rc.toNat ≤ 6) ∧ (t.ac = s.ac ∨ t.ac.toNat ≤ 4)

theorem State.ResultsInRange.refl (s : State) : s.ResultsInRange s := ⟨.inl rfl, .inl rfl⟩

theorem State.ResultsInRange.trans {s t u : State} (hst : s.ResultsInRange t) (htu : t.ResultsInRange u) :
    s.ResultsInRange u := by
  obtain ⟨hrc, hac⟩ := hst
  obtain ⟨hrc', hac'⟩ := htu
  exact ⟨hrc'.elim (fun he => by rwa [he]) .inr, hac'.elim (fun he => by rwa [he]) .inr⟩

/-- A turn writes `RC` only at length 0, with the code of success. -/
theorem controllerTurn_resultsInRange {s : State} (h : s.inv = true) : s.ResultsInRange (controllerTurn s) := by
  obtain ⟨hcfg, -⟩ := (State.inv_iff s).mp h
  rcases controllerTurn_cases s with ⟨-, -, heq⟩ | ⟨-, -, heq⟩ | ⟨-, op, d, b, a, heq⟩ <;> rw [heq]
  · exact ⟨.inr (ResultCode.code_le_six hcfg _), .inl rfl⟩
  · exact .refl s
  · exact .refl s

/-- A completion writes `RC` only in `STOPPING`, with the pending code, and `AC` only with a class. -/
theorem busCompletes_resultsInRange {s : State} (ans : Answer) (h : s.inv = true) :
    s.ResultsInRange (busCompletes ans s) := by
  by_cases hl : s.leOp = .none
  · rw [busCompletes_of_none ans hl]
    exact .refl s
  · refine ⟨?_, (busCompletes_ac ans s).imp_right fun he => by rw [he]; exact AckClass.code_le_four _⟩
    rw [busCompletes_rc ans hl]
    split_ifs with hp
    · obtain ⟨-, -, -, -, hcnt, -⟩ := (State.inv_iff s).mp h
      obtain ⟨-, -, hrcp⟩ := (State.counterInv_iff s).mp hcnt
      exact .inr (hrcp hp)
    · exact .inl rfl

theorem exec_resultsInRange {s t : State} {i : Instr} (h : s.inv = true) (ht : exec i s = .next t) :
    s.ResultsInRange t := by
  obtain ⟨hb, ⟨d, -, -, rfl⟩ | ⟨hi, hen, rfl⟩⟩ := exec_eq_next ht
  · exact .refl s
  · have hrun : (runController s.world (s.accept i)).inv = true ∧
        s.ResultsInRange (runController s.world (s.accept i)) :=
      runController_keeps (fun u => u.inv = true ∧ s.ResultsInRange u) s.world (s.accept i)
        ⟨accept_inv h hb hen hi, .refl s⟩ (fun _ _ hu => hu)
        (fun _ _ ⟨hinv, hres⟩ => ⟨controllerTurn_inv hinv, hres.trans (controllerTurn_resultsInRange hinv)⟩)
        (fun _ a _ ⟨hinv, hres⟩ => ⟨busCompletes_inv a hinv, hres.trans (busCompletes_resultsInRange a hinv)⟩)
    exact hrun.2

/-- Settles O54, by what the step was: each kind of step leaves the two or writes them in range. -/
theorem resultFieldsStayInTheirRange : Obligations.ResultFieldsStayInTheirRange := by
  intro s t h hr hstep
  rcases step_eq_next hstep with ⟨-, rfl⟩ | ⟨rest, -, rfl⟩ | ⟨a, rest, -, rfl⟩ | ⟨d, rest, hw, -⟩ |
    ⟨-, -, v, rest, -, rfl⟩ | ⟨off, value, rest, -, -, -, rfl⟩ | ⟨-, i, rest, -, -, -, hexec⟩
  · exact State.ResultsInRange.refl t
  · exact controllerTurn_resultsInRange (s := { s with world := rest }) h
  · exact busCompletes_resultsInRange (s := { s with world := rest }) a h
  · simp [noResetNext, hw] at hr
  · exact ⟨.inl rfl, .inl rfl⟩
  · exact ⟨.inl rfl, .inl rfl⟩
  · exact exec_resultsInRange (s := { s with world := rest }) h hexec

/-! ### The return of a composite -/

/-- A turn ends no command but one of length 0. -/
theorem controllerTurn_busy {s : State} (hlen : s.dLen ≠ 0) : (controllerTurn s).busy = s.busy := by
  rcases controllerTurn_cases s with ⟨-, h0, -⟩ | ⟨-, -, heq⟩ | ⟨-, op, d, b, a, heq⟩
  · exact absurd h0 hlen
  · rw [heq]
  · rw [heq]

/-- The Stop of `STOPPING` completes: the event, and the pending code (R127, R176). -/
theorem busCompletes_stopping {s : State} (ans : Answer) (hp : s.ph = .stopping) (hl : s.leOp = .stop) :
    busCompletes ans s = (stopDone ans s).returnCode s.rcp := by
  simp [busCompletes, afterOperation, stopDone, hp, hl]

/-- In `STOPPING` the operation in flight is the Stop. -/
theorem leOp_stopping {s : State} (h : s.inv = true) (hp : s.ph = .stopping) (hl : s.leOp ≠ .none) :
    s.leOp = .stop := by
  obtain ⟨-, -, -, -, -, hfit, -⟩ := (State.inv_iff s).mp h
  cases hop : s.leOp <;> simp_all [opFitsPhase]

theorem documentState_stopping {s : State} (hcfg : s.cfg.legal = true) (hp : s.ph = .stopping) :
    documentState s = if s.rcp = 0 then some .stopped else some .aborted := by
  simp [documentState, hp, ResultCode.code_of_legal hcfg]

/-- A completion that ends a composite is that of the Stop in `STOPPING`. -/
theorem composite_returns_in_stopping {s : State} (ans : Answer) (h : s.inv = true) (hb : s.busy = true)
    (hprim : s.ph ≠ .prim) (hend : (busCompletes ans s).busy = false) : s.ph = .stopping ∧ s.leOp = .stop := by
  have hl : s.leOp ≠ .none := fun hl => by simp [busCompletes_of_none ans hl, hb] at hend
  have hp : s.ph = .stopping := by simpa [busCompletes_busy ans hl, hprim, hb] using hend
  exact ⟨hp, leOp_stopping h hp hl⟩

/-- Settles O55: neither a host's read nor a turn ends such a command, so the step completed the Stop of `STOPPING`. -/
theorem compositesReturnFromTerminalStatesOnly : Obligations.CompositesReturnFromTerminalStatesOnly := by
  intro s t h hb hprim hlen hr hstep hend
  rcases step_busy_eq_next hb hr hstep with ⟨w, vs, rfl⟩ | ⟨w, rfl⟩ | ⟨w, a, rfl⟩
  · exact absurd hend (by simp [hb])
  · rw [controllerTurn_busy (s := { s with world := w }) hlen] at hend
    exact absurd (hb.symm.trans hend) (by simp)
  · obtain ⟨hp, hl⟩ := composite_returns_in_stopping (s := { s with world := w }) a h hb hprim hend
    obtain ⟨hcfg, -⟩ := (State.inv_iff s).mp h
    rw [busCompletes_stopping (s := { s with world := w }) a hp hl, documentState_stopping hcfg hp]
    refine ⟨?_, rfl, by simp [stopDone], ?_⟩
    · split_ifs <;> simp
    · split_ifs with h0
      · simp [h0]
      · simpa using h0

end Sys2Proof.Machine
end

section
/-! PROOFS. INIT's word and what it configures, canonical buffers, and the register images. -/

namespace Sys2Proof

theorem decode_eq_init {w : Word} {d : Divisor} (h : decode w = .ok (.init d)) :
    rowInit.matchesWord w = true ∧ d = fieldDiv w := by
  unfold decode at h
  split_ifs at h with hrow
  · cases h
    exact ⟨hrow, rfl⟩
  all_goals cases h

/-- A word that decodes to INIT is INIT's word: no bit of it is ignored (R61, R62). -/
theorem encode_init_of_decode {w : Word} {d : Divisor} (h : decode w = .ok (.init d)) : encode (.init d) = w := by
  obtain ⟨hrow, rfl⟩ := decode_eq_init h
  replace hrow := (OpcodeRow.matchesWord_iff rowInit w).mp hrow
  apply BitVec.eq_of_getLsbD_eq
  intro i hi
  have hbit := congrArg (fun v : Word => v.getLsbD i) hrow
  simp only [rowInit, BitVec.getLsbD_and] at hbit
  simp only [encode, encodeC, fieldDiv, Instr.opcode, BitVec.getLsbD_append, BitVec.getLsbD_extractLsb']
  interval_cases i <;> simp_all

namespace Machine

/-! ### `EN` and `DIV` -/

/-- Settles O51: of the steps that are no reset only an accepted INIT writes either, and its word is INIT's. -/
theorem onlyInitAndResetWriteTheBusHandle : Obligations.OnlyInitAndResetWriteTheBusHandle := by
  intro s t hstep hr hchange
  have hsame : t.en = s.en → t.div = s.div → False := fun he hd => hchange.elim (· he) (· hd)
  rcases step_eq_next hstep with ⟨-, rfl⟩ | ⟨rest, -, rfl⟩ | ⟨a, rest, -, rfl⟩ | ⟨d, rest, hw, -⟩ |
    ⟨-, -, v, rest, -, rfl⟩ | ⟨off, value, rest, -, -, -, rfl⟩ | ⟨value, i, rest, hw, -, hdec, hexec⟩
  · exact (hsame rfl rfl).elim
  · exact (hsame (by simp) (by simp)).elim
  · exact (hsame (by simp) (by simp)).elim
  · simp [noResetNext, hw] at hr
  · exact (hsame rfl rfl).elim
  · exact (hsame rfl rfl).elim
  · obtain ⟨-, ⟨d, rfl, hen, rfl⟩ | ⟨-, -, rfl⟩⟩ := exec_eq_next hexec
    · exact ⟨d, rest, by rw [encode_init_of_decode hdec]; exact hw, hen, rfl, rfl⟩
    · exact (hsame (by simp) (by simp)).elim

/-! ### Canonical buffers -/

/-- Where a canonical buffer lists its first byte, one that lists later bytes only reads otherwise. -/
theorem Memory.read_ne_of_lt {m n : Memory} {k k' : Nat} {v : Byte} (hv : v ≠ unlistedByte) (hlt : k < k')
    (hn : Memory.wfFrom k' n = true) : Memory.read ((k, v) :: m) k ≠ n.read k := by
  rw [Memory.read_cons, if_pos rfl, Memory.read_below hn hlt]
  exact hv

/-- By the first listed bytes: their indices and values agree, and both tails read as unlisted up to there. -/
theorem Memory.eq_of_read_eq {m n : Memory} {lo : Nat} (hm : Memory.wfFrom lo m = true)
    (hn : Memory.wfFrom lo n = true) (h : ∀ i, i < 256 → m.read i = n.read i) : m = n := by
  induction m generalizing lo n with
  | nil =>
    cases n with
    | nil => rfl
    | cons c n =>
      obtain ⟨k, v⟩ := c
      obtain ⟨-, hk, hv, -⟩ := Memory.wfFrom_cons.mp hn
      exact absurd (h k hk).symm (Memory.read_ne_of_lt hv (Nat.lt_succ_self k) rfl)
  | cons c m ih =>
    obtain ⟨k, v⟩ := c
    obtain ⟨-, hk, hv, hmk⟩ := Memory.wfFrom_cons.mp hm
    cases n with
    | nil => exact absurd (h k hk) (Memory.read_ne_of_lt hv (Nat.lt_succ_self k) rfl)
    | cons c' n =>
      obtain ⟨k', v'⟩ := c'
      obtain ⟨-, hk', hv', hnk⟩ := Memory.wfFrom_cons.mp hn
      rcases Nat.lt_trichotomy k k' with hlt | rfl | hlt
      · exact absurd (h k hk)
          (Memory.read_ne_of_lt hv hlt (Memory.wfFrom_cons.mpr ⟨le_rfl, hk', hv', hnk⟩))
      · have hvv : v = v' := by simpa using h k hk
        have htail : ∀ i, i < 256 → Memory.read m i = Memory.read n i := fun i hi => by
          rcases Nat.lt_or_ge k i with hki | hki
          · simpa [hki.ne] using h i hi
          · rw [Memory.read_below hmk (by omega), Memory.read_below hnk (by omega)]
        rw [hvv, ih hmk hnk htail]
      · exact absurd (h k' hk').symm
          (Memory.read_ne_of_lt hv' hlt (Memory.wfFrom_cons.mpr ⟨le_rfl, hk, hv, hmk⟩))

/-- Settles O17, by induction over the listed bytes. -/
theorem canonicalBuffersAreEqualWhenTheyReadAlike : Obligations.CanonicalBuffersAreEqualWhenTheyReadAlike :=
  fun _ _ hm hn h => Memory.eq_of_read_eq hm hn h

/-! ### The register images -/

/-- The fields of `STAT` (R25), the phase by its number. -/
theorem statImage_fields (s : State) :
    (statImage s).getLsbD 0 = s.busy ∧ (statImage s).getLsbD 1 = s.en ∧ (statImage s).getLsbD 2 = s.held ∧
    (statImage s).getLsbD 3 = false ∧ (statImage s).extractLsb' 4 4 = s.ph.code ∧
    (statImage s).extractLsb' 8 8 = s.retry ∧ (statImage s).extractLsb' 16 8 = s.idx ∧
    (statImage s).extractLsb' 24 8 = 0 := by
  simp only [statImage, bit, BitVec.getLsbD_append, BitVec.extractLsb'_append_eq_ite]
  simp

/-- The fields of `RES` (R25). -/
theorem resImage_fields (s : State) :
    (resImage s).extractLsb' 0 4 = s.rc ∧ (resImage s).getLsbD 4 = s.sr ∧ (resImage s).extractLsb' 5 3 = s.ac ∧
    (resImage s).extractLsb' 8 8 = s.data ∧ (resImage s).extractLsb' 16 16 = 0 := by
  simp only [resImage, bit, BitVec.getLsbD_append, BitVec.extractLsb'_append_eq_ite]
  simp

/-- The fields of `CFG` (R25). -/
theorem cfgImage_fields (s : State) :
    (cfgImage s).extractLsb' 0 16 = s.div ∧ (cfgImage s).extractLsb' 16 16 = 0 := by
  simp only [cfgImage, BitVec.extractLsb'_append_eq_ite]
  simp

/-- A write to a register that is not `CMD` is refused (R41). -/
theorem hostWrite_readOnly {off : Offset} (h : off = offStat ∨ off = offRes ∨ off = offCfg) (v : Word) (s : State) :
    hostWrite .word off v s = .refused .writeToReadOnly := by
  rcases h with rfl | rfl | rfl <;> rfl

/-- Settles O13: the images field by field, and the refusal of a write. -/
theorem registerImagesAreTheTable : Obligations.RegisterImagesAreTheTable := by
  intro s
  obtain ⟨hbusy, hen, hheld, hzero, hph, hretry, hidx, htop⟩ := statImage_fields s
  obtain ⟨hrc, hsr, hac, hdata, hres⟩ := resImage_fields s
  obtain ⟨hdiv, hcfg⟩ := cfgImage_fields s
  refine ⟨hbusy, hen, hheld, hzero, ?_, hretry, hidx, htop, hrc, hsr, hac, hdata, hres, hdiv, hcfg,
    fun off v rest hoff hw => ?_⟩
  · rw [hph]
    cases s.ph <;> rfl
  · rw [step_host hw]
    exact hostWrite_readOnly hoff v _

end Machine

end Sys2Proof
end

section
/-! PROOFS. Elements that no command reads: a general notion, and its two uses, `HELD` and the line engine's latches. -/

namespace Sys2Proof.Machine

/-! ### What it means not to read an element -/

/-- `g` does the same whether or not `f` has forgotten its elements before, but for those elements. -/
def Unread (f g : State → State) : Prop := ∀ s, f (g (f s)) = f (g s)

theorem Unread.comp {f g h : State → State} (hh : Unread f h) (hg : Unread f g) : Unread f (fun s => h (g s)) := by
  intro s
  calc f (h (g (f s))) = f (h (f (g (f s)))) := (hh _).symm
    _ = f (h (f (g s))) := by rw [hg s]
    _ = f (h (g s)) := hh _

/-- An operation that commutes with the forgetting does not read what is forgotten. -/
theorem Unread.of_commute {f g : State → State} (hid : ∀ s, f (f s) = f s) (h : ∀ s, g (f s) = f (g s)) :
    Unread f g := fun s => by rw [h s, hid (g s)]

/-- `f` forgets elements that decide no acceptance and that the block's own operations do not read. -/
structure Forgets (f : State → State) : Prop where
  idem : ∀ s, f (f s) = f s
  busy : ∀ s, (f s).busy = s.busy
  en : ∀ s, (f s).en = s.en
  world : ∀ s, (f s).world = s.world
  take : ∀ w, Unread f fun s => { s with world := w }
  configure : ∀ d, Unread f fun s => { s.latch (descriptorOf (.init d)) with div := d, en := true }
  accept : ∀ i, Unread f (State.accept i)
  turn : Unread f controllerTurn
  bus : ∀ a, Unread f (busCompletes a)

theorem mapNext_eq_of_forget_eq {f : State → State} {g : State → Host.Outcome State Fault Refusal}
    (h : ∀ s, mapNext f (g (f s)) = mapNext f (g s)) {s t : State} (hst : f s = f t) :
    mapNext f (g s) = mapNext f (g t) := by
  rw [← h s, hst, h t]

/-- A completion is a procedure's rest and then the sequencer, whichever operation was in flight. -/
theorem Unread.busCompletes {f : State → State} (hid : ∀ s, f (f s) = f s) (hle : ∀ s, (f s).leOp = s.leOp)
    (ans : Answer) (hafter : Unread f afterOperation) (hstart : Unread f (startDone ans))
    (hstop : Unread f (stopDone ans)) (hput : ∀ b, Unread f (putDone b ans)) (hget : ∀ a, Unread f (getDone a ans)) :
    Unread f (busCompletes ans) := fun s => by
  unfold Machine.busCompletes
  rw [hle]
  cases s.leOp with
  | none => exact hid s
  | start => exact hafter.comp hstart s
  | stop => exact hafter.comp hstop s
  | tx b => exact hafter.comp (hput b) s
  | rx a => exact hafter.comp (hget a) s

namespace Forgets

variable {f : State → State} (hf : Forgets f)
include hf

/-- The controller's run reads none of them, by induction over what the world schedules. -/
theorem run (w : List Stimulus) : Unread f (runController w) := by
  induction w with
  | nil => exact hf.idem
  | cons x w ih =>
    intro s
    by_cases hb : s.busy = true
    · have hb' := (hf.busy s).trans hb
      cases x with
      | host a => exact hf.idem s
      | reset d => exact hf.idem s
      | tick =>
        rw [runController_tick _ _ hb, runController_tick _ _ hb']
        exact (ih.comp (hf.turn.comp (hf.take w))) s
      | bus a =>
        rw [runController_bus _ _ _ hb, runController_bus _ _ _ hb']
        exact (ih.comp ((hf.bus a).comp (hf.take w))) s
    · have hb0 : s.busy = false := by simpa using hb
      rw [runController_idle _ _ hb0, runController_idle _ _ ((hf.busy s).trans hb0), hf.idem]

theorem exec (i : Instr) (s : State) :
    mapNext f (Machine.exec i (f s)) = mapNext f (Machine.exec i s) := by
  by_cases hi : ∃ d, i = .init d
  · obtain ⟨d, rfl⟩ := hi
    simp only [Machine.exec, execInit, hf.busy, hf.en]
    split_ifs
    · rfl
    · rfl
    · exact congrArg Host.Outcome.next (hf.configure d s)
  · have hi' : ∀ d, i ≠ .init d := fun d hd => hi ⟨d, hd⟩
    simp only [exec_eq_acceptCommand _ i hi', acceptCommand, hf.busy, hf.en, hf.world]
    split_ifs
    · rfl
    · rfl
    · exact congrArg Host.Outcome.next ((hf.run s.world).comp (hf.accept i) s)

/-- A turn and a completion, as steps of the machine. -/
theorem step_controller {s : State}
    (hw : (∃ rest, s.world = .tick :: rest) ∨ ∃ ans rest, s.world = .bus ans :: rest) :
    mapNext f (step (f s)) = mapNext f (step s) := by
  rcases hw with ⟨rest, hw⟩ | ⟨ans, rest, hw⟩
  · rw [step_tick hw, step_tick ((hf.world s).trans hw)]
    exact congrArg Host.Outcome.next (hf.turn.comp (hf.take rest) s)
  · rw [step_bus hw, step_bus ((hf.world s).trans hw)]
    exact congrArg Host.Outcome.next ((hf.bus ans).comp (hf.take rest) s)

end Forgets

/-! ### What the sequencer's rows leave aside -/

/-- Other values in the elements that the sequencer's rows neither read nor write. -/
def State.setUnread (h : Bool) (tr : List Event) (hs : HwStatus) (b : Byte) (d a : Bool) (s : State) : State :=
  { s with held := h, trace := tr, hwstat := hs, shift := b, done := d, ackPol := a }

section
variable (h : Bool) (tr : List Event) (hs : HwStatus) (b : Byte) (d a : Bool) (s : State)

theorem retryOrGiveUp_setUnread (c : ResultCode) :
    retryOrGiveUp c (s.setUnread h tr hs b d a) = (retryOrGiveUp c s).setUnread h tr hs b d a := by
  unfold retryOrGiveUp
  rw [apply_ite (State.setUnread h tr hs b d a)]
  rfl

/-- Both sides branch on the same elements, so the rows agree branch by branch. -/
theorem afterOperation_setUnread :
    afterOperation (s.setUnread h tr hs b d a) = (afterOperation s).setUnread h tr hs b d a := by
  unfold afterOperation
  rw [show (s.setUnread h tr hs b d a).ph = s.ph from rfl]
  cases s.ph with
  | idle | enter | stopping | prim => rfl
  | start1 =>
    simp only [afterStart1, retryOrGiveUp_setUnread, apply_ite (State.setUnread h tr hs b d a)]
    rfl
  | addrW =>
    simp only [afterAddrW, retryOrGiveUp_setUnread, apply_ite (State.setUnread h tr hs b d a)]
    rfl
  | regAddr =>
    simp only [afterRegAddr, apply_ite (State.setUnread h tr hs b d a)]
    rfl
  | start2 =>
    simp only [afterStart2, apply_ite (State.setUnread h tr hs b d a)]
    rfl
  | addrR =>
    simp only [afterAddrR, apply_ite (State.setUnread h tr hs b d a)]
    rfl
  | dataTx =>
    simp only [afterDataTx, apply_ite (State.setUnread h tr hs b d a)]
    rfl
  | dataRx =>
    simp only [afterDataRx, apply_ite (State.setUnread h tr hs b d a)]
    rfl

end

/-! ### `HELD` -/

@[simp] theorem Event.forgetKind_start (k : StartKind) (hs : HwStatus) :
    (Event.start k hs).forgetKind = .start .fresh hs := rfl
@[simp] theorem Event.forgetKind_stop : Event.stop.forgetKind = .stop := rfl
@[simp] theorem Event.forgetKind_tx (b : Byte) (hs : HwStatus) : (Event.tx b hs).forgetKind = .tx b hs := rfl
@[simp] theorem Event.forgetKind_rx (b : Byte) (a : Bool) : (Event.rx b a).forgetKind = .rx b a := rfl

@[simp] theorem Event.forgetKind_forgetKind (e : Event) : e.forgetKind.forgetKind = e.forgetKind := by
  cases e <;> rfl

theorem State.forgetHeld_forgetHeld (s : State) : s.forgetHeld.forgetHeld = s.forgetHeld := by
  simp [State.forgetHeld]

/-- A turn reads neither `HELD` nor the trace. -/
theorem phaseTurn_forgetHeld (s : State) : phaseTurn s.forgetHeld = (phaseTurn s).forgetHeld := by
  unfold phaseTurn
  rw [show s.forgetHeld.ph = s.ph from rfl]
  cases s.ph with
  | enter =>
    simp only [enterTurn, apply_ite State.forgetHeld]
    rfl
  | prim =>
    simp only [primitiveTurn, apply_ite State.forgetHeld]
    rfl
  | idle | start1 | addrW | regAddr | start2 | addrR | dataTx | dataRx | stopping => rfl

theorem controllerTurn_forgetHeld (s : State) : controllerTurn s.forgetHeld = (controllerTurn s).forgetHeld := by
  simp only [controllerTurn, phaseTurn_forgetHeld, apply_ite State.forgetHeld]
  rfl

theorem unread_forgetHeld_afterOperation : Unread State.forgetHeld afterOperation :=
  .of_commute State.forgetHeld_forgetHeld fun s => by
    rw [show s.forgetHeld = s.setUnread false (s.trace.map Event.forgetKind) s.hwstat s.shift s.done s.ackPol from rfl,
      afterOperation_setUnread]
    simp [State.forgetHeld, State.setUnread]

/-- The completion of a START reads `HELD` for the label of its event alone (R81). -/
theorem unread_forgetHeld_startDone (a : Answer) : Unread State.forgetHeld (startDone a) := fun s => by
  simp [State.forgetHeld, startDone, State.emit, State.complete]

theorem unread_forgetHeld_stopDone (a : Answer) : Unread State.forgetHeld (stopDone a) := fun s => by
  simp [State.forgetHeld, stopDone, State.emit, State.complete]

/-- The completion of a PUT keeps `HELD` or clears it (R103). -/
theorem unread_forgetHeld_putDone (b : Byte) (a : Answer) : Unread State.forgetHeld (putDone b a) := fun s => by
  simp [State.forgetHeld, putDone, State.emit, State.complete, State.loadShift]

theorem unread_forgetHeld_getDone (k : Bool) (a : Answer) : Unread State.forgetHeld (getDone k a) := fun s => by
  simp [State.forgetHeld, getDone, State.emit, State.complete, State.loadShift]

theorem forgets_forgetHeld : Forgets State.forgetHeld where
  idem := State.forgetHeld_forgetHeld
  busy _ := rfl
  en _ := rfl
  world _ := rfl
  take _ := .of_commute State.forgetHeld_forgetHeld fun _ => rfl
  configure _ := .of_commute State.forgetHeld_forgetHeld fun _ => rfl
  accept _ := .of_commute State.forgetHeld_forgetHeld fun _ => rfl
  turn := .of_commute State.forgetHeld_forgetHeld controllerTurn_forgetHeld
  bus ans := .busCompletes State.forgetHeld_forgetHeld (fun _ => rfl) ans unread_forgetHeld_afterOperation
    (unread_forgetHeld_startDone ans) (unread_forgetHeld_stopDone ans) (fun b => unread_forgetHeld_putDone b ans)
    (fun a => unread_forgetHeld_getDone a ans)

/-- Settles O57: the state with `HELD` replaced and the state itself are one once `HELD` is forgotten. -/
theorem heldOnlyLabelsStarts : Obligations.HeldOnlyLabelsStarts := by
  intro s h
  refine ⟨fun i => mapNext_eq_of_forget_eq (forgets_forgetHeld.exec i) rfl, fun hw => ?_⟩
  rw [← forgets_forgetHeld.step_controller hw, ← forgets_forgetHeld.step_controller (s := { s with held := h }) hw]
  rfl

/-! ### The line engine's latches -/

theorem unread_forgetLatches_phaseTurn : Unread State.forgetLatches phaseTurn := fun s => by
  unfold phaseTurn
  rw [show s.forgetLatches.ph = s.ph from rfl]
  cases s.ph with
  | enter =>
    simp only [enterTurn, apply_ite State.forgetLatches]
    rfl
  | prim =>
    simp only [primitiveTurn, apply_ite State.forgetLatches]
    rfl
  | idle | start1 | addrW | regAddr | start2 | addrR | dataTx | dataRx | stopping => rfl

theorem unread_forgetLatches_controllerTurn : Unread State.forgetLatches controllerTurn := fun s => by
  simp only [controllerTurn, apply_ite State.forgetLatches, unread_forgetLatches_phaseTurn s]
  rfl

theorem unread_forgetLatches_afterOperation : Unread State.forgetLatches afterOperation := fun s => by
  rw [show s.forgetLatches = s.setUnread s.held s.trace .other 0 false false from rfl, afterOperation_setUnread]
  simp [State.forgetLatches, State.setUnread]

theorem forgets_forgetLatches : Forgets State.forgetLatches where
  idem _ := rfl
  busy _ := rfl
  en _ := rfl
  world _ := rfl
  take _ _ := rfl
  configure _ _ := rfl
  accept _ _ := rfl
  turn := unread_forgetLatches_controllerTurn
  bus ans := .busCompletes (f := State.forgetLatches) (fun _ => rfl) (fun _ => rfl) ans
    unread_forgetLatches_afterOperation (fun _ => rfl) (fun _ => rfl) (fun _ _ => rfl) (fun _ _ => rfl)

/-! Host accesses and reset do not read the latches either. -/

theorem hostRead_forgetLatches (width : Width) (off : Offset) (s : State) :
    mapNext State.forgetLatches (hostRead width off s.forgetLatches) =
      mapNext State.forgetLatches (hostRead width off s) := by
  unfold hostRead
  split
  · split_ifs <;> rfl
  · rfl
  · simp only [apply_ite (mapNext State.forgetLatches)]
    rfl

theorem writeCommand_forgetLatches (w : Word) (s : State) :
    mapNext State.forgetLatches (writeCommand w s.forgetLatches) =
      mapNext State.forgetLatches (writeCommand w s) := by
  unfold writeCommand
  rw [show s.forgetLatches.busy = s.busy from rfl]
  split_ifs
  · rfl
  · split
    · exact forgets_forgetLatches.exec _ s
    · rfl

theorem hostWrite_forgetLatches (width : Width) (off : Offset) (v : Word) (s : State) :
    mapNext State.forgetLatches (hostWrite width off v s.forgetLatches) =
      mapNext State.forgetLatches (hostWrite width off v s) := by
  unfold hostWrite
  split
  · split_ifs
    · exact writeCommand_forgetLatches v s
    · rfl
    · rfl
  · rfl
  · simp only [apply_ite (mapNext State.forgetLatches)]
    rfl

theorem step_forgetLatches (s : State) :
    mapNext State.forgetLatches (step s.forgetLatches) = mapNext State.forgetLatches (step s) := by
  match hw : s.world with
  | [] => rw [step_nil hw, step_nil (s := s.forgetLatches) hw]; rfl
  | .tick :: rest => exact forgets_forgetLatches.step_controller (.inl ⟨rest, hw⟩)
  | .bus ans :: rest => exact forgets_forgetLatches.step_controller (.inr ⟨ans, rest, hw⟩)
  | .reset d :: rest => rw [step_reset hw, step_reset (s := s.forgetLatches) hw]; rfl
  | .host (.read width off) :: rest =>
    rw [step_host hw, step_host (s := s.forgetLatches) hw]
    exact hostRead_forgetLatches width off { s with world := rest }
  | .host (.write width off v) :: rest =>
    rw [step_host hw, step_host (s := s.forgetLatches) hw]
    exact hostWrite_forgetLatches width off v { s with world := rest }

/-- Settles O58: the state with the four replaced and the state itself are one once the four are forgotten. -/
theorem lineLatchesAreNotReadAfterwards : Obligations.LineLatchesAreNotReadAfterwards := fun s _ _ _ _ =>
  ⟨fun i => mapNext_eq_of_forget_eq (forgets_forgetLatches.exec i) (t := s) rfl,
    mapNext_eq_of_forget_eq step_forgetLatches (t := s) rfl⟩

end Sys2Proof.Machine
end

section
/-! PROOFS. The host window: what a read and a write do in each of its parts, and what a block that waits does. -/

namespace Sys2Proof.Machine

/-! ### The parts of the window (R41) and its accesses (R45) -/

theorem regionOf_registers {off : Offset} (h : off.toNat < 0x10) : regionOf off = .registers := if_pos h

theorem regionOf_hole {off : Offset} (h : ¬ off.toNat < 0x10) (h' : off.toNat < 0x100) : regionOf off = .hole :=
  (if_neg h).trans (if_pos h')

theorem regionOf_buffer {off : Offset} (h : ¬ off.toNat < 0x100) : regionOf off = .buffer (off.toNat - 0x100) :=
  (if_neg (by omega)).trans (if_neg h)

theorem registerAccessOk_iff (width : Width) (off : Offset) :
    registerAccessOk width off = true ↔ width = .word ∧ off.toNat % 4 = 0 := by
  simp [registerAccessOk]

/-! ### A read and a write in each part of the window -/

section
variable {off : Offset} (width : Width) (v : Word) (s : State)

theorem hostRead_registers (h : off.toNat < 0x10) :
    hostRead width off s =
      if width = .word ∧ off.toNat % 4 = 0 then .next (s.reply (registerValue off s)) else .refused .badAccess := by
  simp only [hostRead, regionOf_registers h, registerAccessOk_iff]

theorem hostWrite_registers (h : off.toNat < 0x10) :
    hostWrite width off v s =
      if width = .word ∧ off.toNat % 4 = 0 then
        if off = offCmd then writeCommand v s else .refused .writeToReadOnly
      else .refused .badAccess := by
  simp only [hostWrite, regionOf_registers h, registerAccessOk_iff]

theorem hostRead_hole (h : ¬ off.toNat < 0x10) (h' : off.toNat < 0x100) :
    hostRead width off s = .refused .noSuchRegister := by
  simp only [hostRead, regionOf_hole h h']

theorem hostWrite_hole (h : ¬ off.toNat < 0x10) (h' : off.toNat < 0x100) :
    hostWrite width off v s = .refused .noSuchRegister := by
  simp only [hostWrite, regionOf_hole h h']

theorem hostRead_buffer (h : ¬ off.toNat < 0x100) :
    hostRead width off s =
      if width ≠ .byte then .refused .badAccess
      else if s.busy = true then .fault .bufferRace
      else .next (s.reply ((s.buf.read (off.toNat - 0x100)).setWidth 32)) := by
  simp only [hostRead, regionOf_buffer h, ne_eq, ite_not]

theorem hostWrite_buffer (h : ¬ off.toNat < 0x100) :
    hostWrite width off v s =
      if width ≠ .byte then .refused .badAccess
      else if s.busy = true then .fault .bufferRace
      else .next { s with buf := s.buf.write (off.toNat - 0x100) (v.extractLsb' 0 8) } := by
  simp only [hostWrite, regionOf_buffer h, ne_eq, ite_not, BitVec.setWidth_eq_extractLsb' (show 8 ≤ 32 by decide)]

end

/-- Settles O16, by the read-after-write law of the buffer. -/
theorem hostBufferWriteStoresOneByte : Obligations.HostBufferWriteStoresOneByte := by
  intro s t i v rest hbuf hw hstep
  rw [step_host hw] at hstep
  obtain ⟨-, ⟨hword, -⟩ | ⟨-, -, rfl⟩⟩ := hostWrite_eq_next hstep
  · cases hword
  · have hindex : ((1 : BitVec 1) ++ i : Offset).toNat - 256 = i.toNat := by
      rw [show ((1 : BitVec 1) ++ i).toNat = 256 + i.toNat from offBuf_toNat i, Nat.add_sub_cancel_left]
    rw [hindex, BitVec.setWidth_eq_extractLsb' (by decide)]
    exact ⟨Memory.read_write_eq _ hbuf, fun j hj => Memory.read_write_ne s.buf _ hj⟩

/-- Settles O20: an answered read writes the replies alone, and no write is taken while a command runs. -/
theorem hostCannotDisturbARunningCommand : Obligations.HostCannotDisturbARunningCommand := by
  intro s t a rest hb hw hstep
  rw [step_host hw] at hstep
  cases a with
  | read width off =>
    obtain ⟨v, rfl⟩ := hostRead_eq_next hstep
    rfl
  | write width off v =>
    obtain ⟨hidle, -⟩ := hostWrite_eq_next hstep
    exact absurd (hb.symm.trans hidle) (by simp)

/-- Settles O14, by the part of the window. -/
theorem hostReadFollowsTheWindow : Obligations.HostReadFollowsTheWindow := by
  intro s width off rest hw
  rw [step_host hw, hostAccess]
  by_cases hreg : off.toNat < 0x10
  · rw [if_pos hreg, hostRead_registers width _ hreg]
    rfl
  · rw [if_neg hreg]
    by_cases hhole : off.toNat < 0x100
    · rw [if_pos hhole, hostRead_hole width _ hreg hhole]
    · rw [if_neg hhole, hostRead_buffer width _ hhole]
      rfl

/-- Settles O15, by the part of the window; a 32-bit register write is not to `CMD`, by the premise. -/
theorem hostWriteFollowsTheWindow : Obligations.HostWriteFollowsTheWindow := by
  intro s width off v rest hw hcmd
  rw [step_host hw, hostAccess]
  by_cases hreg : off.toNat < 0x10
  · rw [if_pos hreg, hostWrite_registers width v _ hreg]
    refine ite_congr rfl (fun ⟨hword, _⟩ => ?_) fun _ => rfl
    exact if_neg fun hoff => hcmd ⟨hword, hoff⟩
  · rw [if_neg hreg]
    by_cases hhole : off.toNat < 0x100
    · rw [if_pos hhole, hostWrite_hole width v _ hreg hhole]
    · rw [if_neg hhole, hostWrite_buffer width v _ hhole]

/-! ### A block that waits -/

/-- With an operation in flight or no command running there is no turn, and `IDLE` has no step (R46, R132). -/
theorem controllerTurn_of_waiting {s : State} (h : s.leOp ≠ .none ∨ s.ph = .idle ∨ s.busy = false) :
    controllerTurn s = s := by
  rcases h with hl | hp | hb
  · simp [controllerTurn, hl]
  · simp [controllerTurn, phaseTurn, hp]
  · simp [controllerTurn, hb]

/-- Settles O47, by what each of the three steps is. -/
theorem waitingControllerHasNoStep : Obligations.WaitingControllerHasNoStep := by
  intro s ans rest
  refine ⟨fun hwait hw => ?_, fun hl hw => ?_, step_nil⟩
  · rw [step_tick hw, controllerTurn_of_waiting (s := { s with world := rest }) hwait]
  · rw [step_bus hw, busCompletes_of_none (s := { s with world := rest }) ans hl]

end Sys2Proof.Machine
end

section
/-! PROOFS. The command word: decoding and encoding are inverse to each other; the operand ranges of the assembler. -/

namespace Sys2Proof

/-! ### Rows and the commands they decode to -/

/-- The command of the same row whose operands are the fields of `w` (R63). -/
def Instr.withFields (w : Word) : Instr → Instr
  | .init _ => .init (fieldDiv w)
  | .start => .start
  | .stop => .stop
  | .put _ => .put (fieldReg w)
  | .getn => .getn
  | .geta => .geta
  | .write _ _ _ => .write (fieldSla w) (fieldLen w) (fieldReg w)
  | .read _ _ _ => .read (fieldSla w) (fieldLen w) (fieldReg w)

@[simp] theorem Instr.row_withFields (i : Instr) (w : Word) : (i.withFields w).row = i.row := by
  cases i <;> rfl

theorem Instr.row_mem_opcodeMap (i : Instr) : i.row ∈ opcodeMap := by
  cases i <;> simp [Instr.row, opcodeMap]

/-- The opcodes of the map tell its rows apart. -/
theorem opcodeMap_eq_of_fieldOp_eq :
    ∀ r ∈ opcodeMap, ∀ r' ∈ opcodeMap, fieldOp r.value = fieldOp r'.value → r = r' := by
  decide

/-- A word that matches a row of the map matches no other. -/
theorem matchesWord_eq_decide {r r' : OpcodeRow} (hr : r ∈ opcodeMap) (hr' : r' ∈ opcodeMap) {w : Word}
    (h : r.matchesWord w = true) : r'.matchesWord w = decide (r' = r) := by
  rw [Bool.eq_iff_iff, decide_eq_true_iff]
  constructor
  · intro h'
    exact opcodeMap_eq_of_fieldOp_eq r' hr' r hr
      ((fieldOp_of_matchesWord hr' h').symm.trans (fieldOp_of_matchesWord hr h))
  · rintro rfl
    exact h

/-- A word that matches a command's row decodes to that command, its operands the word's fields (R62, R63). -/
theorem decode_of_matchesWord {i : Instr} {w : Word} (h : i.row.matchesWord w = true) :
    decode w = .ok (i.withFields w) := by
  have hrow : ∀ r ∈ opcodeMap, r.matchesWord w = decide (r = i.row) := fun _ hr =>
    matchesWord_eq_decide i.row_mem_opcodeMap hr h
  simp only [opcodeMap, List.forall_mem_cons] at hrow
  obtain ⟨hinit, hstart, hstop, hput, hgetn, hgeta, hwrite, hread, -⟩ := hrow
  rw [decode, hinit, hstart, hstop, hput, hgetn, hgeta, hwrite, hread]
  cases i <;> rfl

/-- A command is decoded from words of its row alone, and with their fields. -/
theorem decode_eq_ok_iff {w : Word} {i : Instr} :
    decode w = .ok i ↔ i.row.matchesWord w = true ∧ i.withFields w = i := by
  constructor
  · intro h
    unfold decode at h
    split_ifs at h
    all_goals
      cases h
      exact ⟨by assumption, rfl⟩
  · rintro ⟨hrow, hfields⟩
    rw [decode_of_matchesWord hrow, hfields]

theorem decode_eq_withFields_iff (i : Instr) (w : Word) :
    decode w = .ok (i.withFields w) ↔ w &&& i.row.mask = i.row.value := by
  rw [← OpcodeRow.matchesWord_iff]
  refine ⟨fun h => ?_, decode_of_matchesWord⟩
  obtain ⟨hrow, -⟩ := decode_eq_ok_iff.mp h
  rwa [Instr.row_withFields] at hrow

/-! ### The word of a command -/

theorem encode_matchesRow (i : Instr) : i.row.matchesWord (encode i) = true := by
  have h : Laws.EncodeMatchesRow.Statement i := by
    cases i with
    | init div => exact Laws.EncodeMatchesRow.init div
    | start => exact Laws.EncodeMatchesRow.start
    | stop => exact Laws.EncodeMatchesRow.stop
    | put byte => exact Laws.EncodeMatchesRow.put byte
    | getn => exact Laws.EncodeMatchesRow.getn
    | geta => exact Laws.EncodeMatchesRow.geta
    | write sla len reg => exact Laws.EncodeMatchesRow.write sla len reg
    | read sla len reg => exact Laws.EncodeMatchesRow.read sla len reg
  obtain ⟨-, hmatch, -⟩ := h
  exact hmatch

/-- The fields of a command's word are its operands (R61). -/
theorem withFields_encode (i : Instr) : i.withFields (encode i) = i := by
  cases i <;> simp [Instr.withFields, encode]

/-- Settles O1: the word matches its command's row, and its fields are the operands. -/
theorem decodeOfEncodeIsTheInstruction : Obligations.DecodeOfEncodeIsTheInstruction := fun i =>
  decode_eq_ok_iff.mpr ⟨encode_matchesRow i, withFields_encode i⟩

/-- Settles O3, row by row. -/
theorem wordIsTheCommandOfTheRowItMatches : Obligations.WordIsTheCommandOfTheRowItMatches := fun w =>
  ⟨decode_eq_withFields_iff (.init 0) w, decode_eq_withFields_iff .start w, decode_eq_withFields_iff .stop w,
    decode_eq_withFields_iff (.put 0) w, decode_eq_withFields_iff .getn w, decode_eq_withFields_iff .geta w,
    decode_eq_withFields_iff (.write 0 0 0) w, decode_eq_withFields_iff (.read 0 0 0) w⟩

/-- A word of format B is made of its byte and its opcode: every other bit of it is 0. -/
theorem encodeB_fields {w : Word} {op : BitVec 4} (h : w &&& 0xFFF00FFF = op.setWidth 32) :
    encodeB (fieldReg w) op = w := by
  apply BitVec.eq_of_getLsbD_eq
  intro i hi
  have hbit := congrArg (fun v : Word => v.getLsbD i) h
  simp only [BitVec.getLsbD_and, BitVec.getLsbD_setWidth] at hbit
  simp only [encodeB, fieldReg, BitVec.getLsbD_append, BitVec.getLsbD_extractLsb']
  interval_cases i <;> simp_all

/-- A word of format T is made of its three operands and its opcode: every other bit of it is 0. -/
theorem encodeT_fields {w : Word} {op : BitVec 4} (h : w &&& 0xF000080F = op.setWidth 32) :
    encodeT (fieldLen w) (fieldReg w) (fieldSla w) op = w := by
  apply BitVec.eq_of_getLsbD_eq
  intro i hi
  have hbit := congrArg (fun v : Word => v.getLsbD i) h
  simp only [BitVec.getLsbD_and, BitVec.getLsbD_setWidth] at hbit
  simp only [encodeT, fieldLen, fieldReg, fieldSla, BitVec.getLsbD_append, BitVec.getLsbD_extractLsb']
  interval_cases i <;> simp_all

/-- A word of format N is its opcode: every other bit of it is 0. -/
theorem encodeN_eq {w : Word} {op : BitVec 4} (h : w &&& 0xFFFFFFFF = op.setWidth 32) : encodeN op = w := by
  rw [show (0xFFFFFFFF : Word) = BitVec.allOnes 32 by decide, BitVec.and_allOnes] at h
  rw [h, encodeN]
  exact (BitVec.setWidth_eq_append (by decide)).symm

/-- Settles O2, format by format: the row fixes every bit that is no operand. -/
theorem encodeOfDecodeIsTheWord : Obligations.EncodeOfDecodeIsTheWord := by
  intro w i h
  obtain ⟨hrow, hfields⟩ := decode_eq_ok_iff.mp h
  rw [OpcodeRow.matchesWord_iff] at hrow
  cases i with
  | init d => exact encode_init_of_decode h
  | start | stop | getn | geta => exact encodeN_eq hrow
  | put b =>
    rw [← hfields]
    exact encodeB_fields hrow
  | write sla len reg | read sla len reg =>
    rw [← hfields]
    exact encodeT_fields hrow

/-! ### The assembler -/

/-- The check is on the ranges of R66. -/
theorem Asm.wellFormed_iff (a : Asm) :
    a.wellFormed = true ↔
      match a with
      | .init div => div ≤ 65535
      | .put byte => byte ≤ 255
      | .write sla len reg => sla ≤ 127 ∧ len ≤ 255 ∧ reg ≤ 255
      | .read sla len reg => sla ≤ 127 ∧ len ≤ 255 ∧ reg ≤ 255
      | .start => True
      | .stop => True
      | .geta => True
      | .getn => True := by
  cases a <;> simp [Asm.wellFormed, transactionOperandsFit, and_assoc, Nat.lt_succ_iff]

theorem Instr.wellFormed_toAsm (i : Instr) : i.toAsm.wellFormed = true := by
  rw [Asm.wellFormed_iff]
  cases i <;> simp [Instr.toAsm] <;> omega

/-- A command's own line assembles to it. -/
theorem Instr.assemble_toAsm (i : Instr) : i.toAsm.assemble = some i := by
  refine (if_pos i.wellFormed_toAsm).trans ?_
  cases i <;> simp [Instr.toAsm]

/-- A line in range is the line of the command it assembles to: no operand is cut off. -/
theorem Asm.toAsm_of_assemble {a : Asm} {i : Instr} (h : a.assemble = some i) : i.toAsm = a := by
  unfold Asm.assemble at h
  split_ifs at h with hwf
  rw [Asm.wellFormed_iff] at hwf
  cases h
  cases a <;> simp [Instr.toAsm] <;> omega

theorem Asm.assemble_eq_some_iff {a : Asm} {i : Instr} : a.assemble = some i ↔ a.wellFormed = true ∧ i.toAsm = a := by
  constructor
  · intro h
    have ha := Asm.toAsm_of_assemble h
    exact ⟨ha ▸ i.wellFormed_toAsm, ha⟩
  · rintro ⟨-, rfl⟩
    exact i.assemble_toAsm

/-- Settles O6: a line assembles to a command exactly when it is in range and is that command's line. -/
theorem assemblerTakesExactlyTheOperandRanges : Obligations.AssemblerTakesExactlyTheOperandRanges := by
  refine ⟨fun a i => ?_, Asm.wellFormed_iff⟩
  rw [Asm.assemble_eq_some_iff, Asm.wellFormed_iff]
  cases a <;> cases i <;> simp [Instr.toAsm]

end Sys2Proof
end

section
/-! PROOFS. Acceptance of a command: the step that a word written to `CMD` is, what acceptance latches, and the
controller's run behind it as single steps. -/

namespace Sys2Proof.Machine

/-! ### A word written to `CMD` -/

/-- A 32-bit write to `CMD` passes the tests of the window (R41, R45). -/
theorem hostAccess_cmd (w : Word) (s : State) : hostAccess (.write .word offCmd w) s = writeCommand w s := rfl

theorem step_cmd {s : State} {w : Word} {rest : List Stimulus} (hw : s.world = .host (.write .word 0x000 w) :: rest) :
    step s = writeCommand w { s with world := rest } :=
  step_host hw

theorem writeCommand_of_decode {s : State} {w : Word} {i : Instr} (hb : s.busy = false) (h : decode w = .ok i) :
    writeCommand w s = exec i s := by
  simp [writeCommand, hb, h]

theorem writeCommand_of_reject {s : State} {w : Word} {e : DecodeReject} (hb : s.busy = false)
    (h : decode w = .error e) : writeCommand w s = .refused .reservedEncoding := by
  simp [writeCommand, hb, h]

/-- Settles O7: in an idle block the word written is decoded and its command run. -/
theorem stepRunsTheDecodedCommand : Obligations.StepRunsTheDecodedCommand := fun s _ _ rest hb hw hdec =>
  (step_cmd hw).trans (writeCommand_of_decode (s := { s with world := rest }) hb hdec)

/-- Settles O4: a word that decodes matches a row of the map, the row of its command. -/
theorem reservedWordIsRefused : Obligations.ReservedWordIsRefused := by
  intro s w rest hb hw hrows
  rw [step_cmd hw]
  cases hdec : decode w with
  | error e => exact writeCommand_of_reject (s := { s with world := rest }) hb hdec
  | ok i =>
    obtain ⟨hmatch, -⟩ := decode_eq_ok_iff.mp hdec
    exact absurd ((OpcodeRow.matchesWord_iff i.row w).mp hmatch) (hrows i.row i.row_mem_opcodeMap)

/-! ### What acceptance latches -/

/-- Acceptance of a command other than INIT, and then the controller's run. -/
theorem exec_of_accepted {s : State} {i : Instr} (hb : s.busy = false) (he : s.en = true) (hi : ∀ d, i ≠ .init d) :
    exec i s = .next (runController s.world (s.accept i)) :=
  (exec_eq_acceptCommand s i hi).trans (acceptCommand_ready s hb he)

/-- Where neither a turn nor a completion comes next the controller does not run. -/
theorem runController_of_unscheduled {w : List Stimulus} (s : State) (htick : ∀ rest, w ≠ .tick :: rest)
    (hbus : ∀ ans rest, w ≠ .bus ans :: rest) : runController w s = s := by
  match w with
  | [] => rfl
  | .host _ :: _ => rfl
  | .reset _ :: _ => rfl
  | .tick :: rest => exact absurd rfl (htick rest)
  | .bus ans :: rest => exact absurd rfl (hbus ans rest)

/-- The direction latched is bit 0 of the word, the low bit of its opcode (R19, R60). -/
theorem getLsbD_zero_encode (i : Instr) : (encode i).getLsbD 0 = i.opcode.getLsbD 0 := by
  rw [← fieldOp_encode i]
  simp [fieldOp]

/-- Settles O11: the controller does not run behind acceptance, and each latch is its field of the word. -/
theorem acceptanceLatchesAndSetsBusy : Obligations.AcceptanceLatchesAndSetsBusy := by
  intro s i hready hi htick hbus
  obtain ⟨hb, he, -⟩ := (State.ready_iff s).mp hready
  rw [exec_of_accepted hb he hi, runController_of_unscheduled _ htick hbus, getLsbD_zero_encode,
    show (encode i).extractLsb' 0 4 = i.opcode from fieldOp_encode i,
    show s.accept i = s.accept (i.withFields (encode i)) by rw [withFields_encode]]
  cases i with
  | init d => exact absurd rfl (hi d)
  | start | stop | put | getn | geta | write | read => rfl

/-! ### The controller's run as single steps -/

/-- Each stimulus the controller's run takes is one step of the machine, taken while a command runs. -/
theorem runsBusy_runController (w : List Stimulus) (s : State) (hw : s.world = w) :
    ∃ n, RunsBusy n s (runController w s) := by
  induction w generalizing s with
  | nil => exact ⟨0, rfl⟩
  | cons x w ih =>
    by_cases hb : s.busy = true
    · cases x with
      | host a => exact ⟨0, rfl⟩
      | reset d => exact ⟨0, rfl⟩
      | tick =>
        obtain ⟨n, hn⟩ := ih (controllerTurn { s with world := w }) (by simp)
        rw [runController_tick s w hb]
        exact ⟨n + 1, hb, by simp [noResetNext, hw], _, step_tick hw, hn⟩
      | bus a =>
        obtain ⟨n, hn⟩ := ih (busCompletes a { s with world := w }) (by simp)
        rw [runController_bus s w a hb]
        exact ⟨n + 1, hb, by simp [noResetNext, hw], _, step_bus hw, hn⟩
    · rw [runController_idle s _ (by simpa using hb)]
      exact ⟨0, rfl⟩

/-- Settles O12: the controller's run behind acceptance, as single steps. -/
theorem execIsAcceptanceThenSteps : Obligations.ExecIsAcceptanceThenSteps := by
  intro s t i hb hi ht
  obtain ⟨-, ⟨d, rfl, -⟩ | ⟨-, he, rfl⟩⟩ := exec_eq_next ht
  · exact absurd rfl (hi d)
  · obtain ⟨n, hn⟩ := runsBusy_runController s.world (s.accept i) rfl
    exact ⟨n, _, exec_of_accepted (s := { s with world := [] }) hb he hi, hn⟩

end Sys2Proof.Machine
end

section
/-! PROOFS. Host programs: what each statement of a script does, the buffer fill, and the calls of the primitives. -/

namespace Sys2Proof.Machine

/-! ### The statements of a script -/

/-- A statement that is answered hands over to the next one; a `wait` has to have ended. -/
theorem playScript_cons {x : Stmt} {rest : List Stmt} {s t : State} (h : playStmt x s = .next t)
    (hended : x = .wait → t.busy = false) : playScript (x :: rest) s = playScript rest t := by
  rw [playScript, h]
  refine if_neg fun ⟨hx, hb⟩ => ?_
  rw [hended hx] at hb
  cases hb

/-- `bufw` writes its byte and changes nothing else. -/
theorem playStmt_bufw {s : State} (hb : s.busy = false) (i v : Byte) :
    playStmt (.bufw i v) s = .next { s with buf := s.buf.write i.toNat v } := by
  simp [playStmt, Stmt.access, hostActs, hostAccess, hostWrite, hb]

/-- `cmd` writes the word, which decodes to the command, and the controller takes no step. -/
theorem playStmt_cmd {s : State} {i : Instr} (hb : s.busy = false) (he : s.en = true) (hi : ∀ d, i ≠ .init d) :
    playStmt (.cmd i) s = .next (s.accept i) := by
  have haccess : hostAccess (Stmt.cmd i).access { s with world := [] } =
      .next (State.accept i { s with world := [] }) :=
    (writeCommand_of_decode (s := { s with world := [] }) hb (decodeOfEncodeIsTheInstruction i)).trans
      (exec_of_accepted (s := { s with world := [] }) hb he hi)
  rw [playStmt, hostActs, haccess]
  rfl

theorem playStmt_cmd_busy {s : State} (hb : s.busy = true) (i : Instr) :
    playStmt (.cmd i) s = .fault .reentry := by
  simp [playStmt, Stmt.access, hostActs, hostAccess_cmd, writeCommand, hb]

theorem hostActs_stat (s : State) : hostActs Stmt.wait.access s = .next (s.reply (statImage s)) := rfl

theorem playStmt_res (s : State) : playStmt (.rd .res) s = .next (s.reply (resImage s)) := rfl

/-- What `wait` polls is `BUSY` (R25). -/
theorem registerValue_stat_zero (s : State) : (registerValue offStat s).getLsbD 0 = s.busy := by
  obtain ⟨hbusy, -⟩ := statImage_fields s
  exact hbusy

/-- In an idle block `wait` ends with its first poll. -/
theorem playWait_idle (w : List Stimulus) {s : State} (hb : s.busy = false) :
    playWait w s = .next (s.reply (statImage s)) := by
  cases w with
  | nil => rfl
  | cons x w => simp only [playWait, hostActs_stat, registerValue_stat_zero, hb, Bool.false_eq_true, if_false]

/-- While a command runs a poll is followed by one step of the world. -/
theorem playWait_busy {x : Stimulus} {w : List Stimulus} {s t : State} (hb : s.busy = true)
    (h : worldStep (s.reply (statImage s)) = .next t) : playWait (x :: w) s = playWait w t := by
  simp only [playWait, hostActs_stat, registerValue_stat_zero, hb, h, if_true]

/-! ### The buffer fill -/

/-- The `bufw` statements fill the buffer, by induction over the bytes. -/
theorem playScript_fillStmts (bytes : List Byte) (i : Nat) {s : State} (hb : s.busy = false)
    (hlen : i + bytes.length ≤ 256) :
    playScript (fillStmts i bytes) s = .next { s with buf := Memory.fill i bytes s.buf } := by
  induction bytes generalizing i s with
  | nil => rfl
  | cons b bs ih =>
    rw [List.length_cons] at hlen
    have hi : i < 256 := by omega
    have hindex : (BitVec.ofNat 8 i).toNat = i := Nat.mod_eq_of_lt hi
    rw [fillStmts, playScript_cons (playStmt_bufw hb _ b) (by simp), hindex, Memory.fill,
      if_pos (show i < Config.hardware.bufBytes from hi)]
    exact ih (i + 1) (s := { s with buf := s.buf.write i b }) hb (by omega)

/-- Settles O60, by what a filled buffer reads as. -/
theorem bufferFillStoresTheCallsBytes : Obligations.BufferFillStoresTheCallsBytes := by
  intro s bytes hb hbuf hlen
  refine ⟨_, playScript_fillStmts bytes 0 hb (by omega), Memory.wf_fill bytes 0 hbuf, fun j hj => ?_, fun j hj => ?_⟩
  · rw [Memory.read_fill bytes 0 j hbuf, dif_pos ⟨j.zero_le, by omega, hj⟩]
    rfl
  · exact (Memory.read_fill bytes 0 j hbuf).trans (dif_neg (by omega))

/-! ### The calls of the primitives -/

/-- One round of `wait`: `STAT` has been read, and the next stimulus, taken off, leaves `w`. -/
def State.polled (w : List Stimulus) (s : State) : State := { s.reply (statImage s) with world := w }

/-- A primitive accepted in `s`, after its turn and its completion by `ans`, each in a round of `wait`. -/
def polledPrimitive (i : Instr) (ans : Answer) (rest : List Stimulus) (s : State) : State :=
  busCompletes ans ((controllerTurn ((s.accept i).polled (.bus ans :: rest))).polled rest)

section
variable {s : State} {ans : Answer} {rest : List Stimulus}

/-- The turn of a primitive leaves it running. -/
theorem controllerTurn_busy_of_prim (hp : s.ph = .prim) : (controllerTurn s).busy = s.busy := by
  rcases controllerTurn_cases s with ⟨⟨-, -, he⟩, -⟩ | ⟨⟨-, -, he⟩, -⟩ | ⟨-, op, d, b, a, heq⟩
  · exact absurd (hp.symm.trans he) (by decide)
  · exact absurd (hp.symm.trans he) (by decide)
  · rw [heq]

/-- The script of a primitive that returns ends with the image of its results. -/
theorem playScript_primitive {i : Instr} (hs : s.ready = true) (hw : s.world = .tick :: .bus ans :: rest)
    (hp : firstPhase i = .prim) (hi : ∀ d, i ≠ .init d) {v : State} (hv : polledPrimitive i ans rest s = v)
    (hret : v.busy = false) :
    playScript [.cmd i, .wait, .rd .res] s = .next ((v.reply (statImage v)).reply (resImage v)) := by
  subst hv
  obtain ⟨hb, he, -⟩ := (State.ready_iff s).mp hs
  have hturn := step_tick (s := (s.accept i).reply (statImage (s.accept i))) hw
  have hwait := calc playStmt .wait (s.accept i)
    _ = playWait (.bus ans :: rest) (controllerTurn ((s.accept i).polled (.bus ans :: rest))) := by
      rw [playStmt, show (s.accept i).world = _ from hw]
      exact playWait_busy rfl hturn
    _ = playWait rest (polledPrimitive i ans rest s) :=
      playWait_busy (controllerTurn_busy_of_prim hp) (step_bus (a := ans) (rest := rest) (by simp [State.polled]))
    _ = _ := playWait_idle rest hret
  rw [playScript_cons (playStmt_cmd hb he hi) (by simp), playScript_cons hwait fun _ => hret,
    playScript_cons (playStmt_res _) (by simp)]
  rfl

/-! What each primitive has come to when it returns: the rest of its procedure, and the return (R87). -/

theorem controllerTurn_prim (hb : s.busy = true) (hl : s.leOp = .none) (hp : s.ph = .prim) :
    controllerTurn s = primitiveTurn s := by
  simp [controllerTurn, phaseTurn, hb, hl, hp]

variable (ans rest) (hl : s.leOp = .none)
include hl

theorem polledPrimitive_start :
    ∃ u, polledPrimitive .start ans rest s = (startDone ans u).returnPrimitive := by
  rw [polledPrimitive, controllerTurn_prim (s := (s.accept .start).polled _) rfl hl rfl]
  exact ⟨_, rfl⟩

theorem polledPrimitive_put (b : Byte) :
    ∃ u, polledPrimitive (.put b) ans rest s = (putDone b ans u).returnPrimitive := by
  rw [polledPrimitive, controllerTurn_prim (s := (s.accept (.put b)).polled _) rfl hl rfl]
  exact ⟨_, rfl⟩

theorem polledPrimitive_geta :
    ∃ u, polledPrimitive .geta ans rest s = (getDone true ans u).returnPrimitive ∧ u.trace = s.trace := by
  rw [polledPrimitive, controllerTurn_prim (s := (s.accept .geta).polled _) rfl hl rfl]
  exact ⟨_, rfl, rfl⟩

theorem polledPrimitive_getn :
    ∃ u, polledPrimitive .getn ans rest s = (getDone false ans u).returnPrimitive ∧ u.trace = s.trace := by
  rw [polledPrimitive, controllerTurn_prim (s := (s.accept .getn).polled _) rfl hl rfl]
  exact ⟨_, rfl, rfl⟩

end

/-! What the calls read of `RES` (R68). -/

theorem callValue_start (s : State) : Call.value (resImage s) .start = some s.sr.toNat := by
  have hsr : (resImage s).extractLsb' 4 1 = bit s.sr := by
    simp only [resImage, BitVec.extractLsb'_append_eq_ite]
    simp
  rw [Call.value, hsr, bit, BitVec.toNat_ofBool]

theorem callValue_putByte (b : Byte) (s : State) : Call.value (resImage s) (.putByte b) = some s.ac.toNat := by
  obtain ⟨-, -, hac, -⟩ := resImage_fields s
  rw [Call.value, hac]

theorem callValue_getByteAck (s : State) : Call.value (resImage s) .getByteAck = some s.data.toNat := by
  obtain ⟨-, -, -, hdata, -⟩ := resImage_fields s
  rw [Call.value, hdata]

theorem callValue_getByteNack (s : State) : Call.value (resImage s) .getByteNack = some s.data.toNat :=
  callValue_getByteAck s

/-- Settles O59: the second command meets the first still running; and the word read at `RES` has the results that the
completion of each primitive writes. -/
theorem primitiveCallsReturnTheirResult : Obligations.PrimitiveCallsReturnTheirResult := by
  refine ⟨fun s i j rest hs hi => ?_, fun s ans rest b hs hw => ?_⟩
  · obtain ⟨hb, he, -⟩ := (State.ready_iff s).mp hs
    rw [playScript_cons (playStmt_cmd hb he hi) (by simp), playScript, playStmt_cmd_busy rfl]
  · obtain ⟨-, -, hl⟩ := (State.ready_iff s).mp hs
    refine ⟨?_, ?_, ?_, ?_⟩
    · obtain ⟨u, hend⟩ := polledPrimitive_start ans rest hl
      refine ⟨_, _, playScript_primitive hs hw rfl (by simp) hend rfl, List.getLast?_concat, ?_⟩
      rw [callValue_start]
      cases h : startOk ans.status <;> simp [startDone, h]
    · obtain ⟨u, hend⟩ := polledPrimitive_put ans rest hl b
      exact ⟨_, _, playScript_primitive hs hw rfl (by simp) hend rfl, List.getLast?_concat, callValue_putByte b _⟩
    · obtain ⟨u, hend, htrace⟩ := polledPrimitive_geta ans rest hl
      exact ⟨_, _, playScript_primitive hs hw rfl (by simp) hend rfl, List.getLast?_concat, callValue_getByteAck _,
        congrArg (· ++ [Event.rx ans.byte true]) htrace⟩
    · obtain ⟨u, hend, htrace⟩ := polledPrimitive_getn ans rest hl
      exact ⟨_, _, playScript_primitive hs hw rfl (by simp) hend rfl, List.getLast?_concat, callValue_getByteNack _,
        congrArg (· ++ [Event.rx ans.byte false]) htrace⟩

end Sys2Proof.Machine
end

section
/-! PROOFS. The five primitives: acceptance, the turn that issues the one bus operation, and the completion that returns
(R87). START and STOP, and what every primitive leaves alone. -/

namespace Sys2Proof.Machine

/-! ### A completion in `PRIM` -/

section
variable {s : State} (ans : Answer) (hp : s.ph = .prim)
include hp

theorem busCompletes_prim_start (hl : s.leOp = .start) :
    busCompletes ans s = (startDone ans s).returnPrimitive := by
  simp [busCompletes, afterOperation, startDone, hp, hl]

theorem busCompletes_prim_stop (hl : s.leOp = .stop) : busCompletes ans s = (stopDone ans s).returnPrimitive := by
  simp [busCompletes, afterOperation, stopDone, hp, hl]

theorem busCompletes_prim_tx {b : Byte} (hl : s.leOp = .tx b) :
    busCompletes ans s = (putDone b ans s).returnPrimitive := by
  simp [busCompletes, afterOperation, putDone, hp, hl]

theorem busCompletes_prim_rx {a : Bool} (hl : s.leOp = .rx a) :
    busCompletes ans s = (getDone a ans s).returnPrimitive := by
  simp [busCompletes, afterOperation, getDone, hp, hl]

end

/-- A completion appends one event, where there is an operation to complete. -/
theorem busCompletes_trace {s : State} (ans : Answer) (hl : s.leOp ≠ .none) :
    ∃ e, (busCompletes ans s).trace = s.trace ++ [e] := by
  unfold busCompletes
  split
  · contradiction
  all_goals exact ⟨_, afterOperation_trace _⟩

/-! ### The world and the replies, which no primitive reads -/

/-- `s` with another world and other replies. -/
def State.setHost (w : List Stimulus) (vs : List Word) (s : State) : State := { s with world := w, replies := vs }

theorem primitiveTurn_setHost (w : List Stimulus) (vs : List Word) (s : State) :
    primitiveTurn (s.setHost w vs) = (primitiveTurn s).setHost w vs := by
  simp only [primitiveTurn, apply_ite (State.setHost w vs)]
  rfl

theorem busCompletes_prim_setHost {s : State} (ans : Answer) (hp : s.ph = .prim) (w : List Stimulus) (vs : List Word) :
    busCompletes ans (s.setHost w vs) = (busCompletes ans s).setHost w vs := by
  have hp' : (s.setHost w vs).ph = .prim := hp
  cases hl : s.leOp with
  | none => rw [busCompletes_of_none ans hl, busCompletes_of_none ans (by exact hl)]
  | start => rw [busCompletes_prim_start ans hp hl, busCompletes_prim_start ans hp' hl]; rfl
  | stop => rw [busCompletes_prim_stop ans hp hl, busCompletes_prim_stop ans hp' hl]; rfl
  | tx b => rw [busCompletes_prim_tx ans hp hl, busCompletes_prim_tx ans hp' hl]; rfl
  | rx a => rw [busCompletes_prim_rx ans hp hl, busCompletes_prim_rx ans hp' hl]; rfl

/-! ### The issue of a primitive's operation -/

section
variable {s u : State} (h : s.LineOnly u)
include h

theorem State.LineOnly.busy_eq : u.busy = s.busy := by obtain ⟨op, d, b, a, rfl⟩ := h; rfl

theorem State.LineOnly.ph_eq : u.ph = s.ph := by obtain ⟨op, d, b, a, rfl⟩ := h; rfl

theorem State.LineOnly.trace_eq : u.trace = s.trace := by obtain ⟨op, d, b, a, rfl⟩ := h; rfl

theorem State.LineOnly.replies_eq : u.replies = s.replies := by obtain ⟨op, d, b, a, rfl⟩ := h; rfl

end

/-- The five commands that perform one bus operation each (R87). -/
def IsPrimitive (i : Instr) : Prop := i = .start ∨ i = .stop ∨ (∃ b, i = .put b) ∨ i = .geta ∨ i = .getn

theorem IsPrimitive.ne_init {i : Instr} (hi : IsPrimitive i) (d : Divisor) : i ≠ .init d := by
  rcases hi with rfl | rfl | ⟨b, rfl⟩ | rfl | rfl <;> simp

/-- A primitive is accepted into `PRIM` (R69). -/
theorem IsPrimitive.accept_ph {i : Instr} (hi : IsPrimitive i) (s : State) : (s.accept i).ph = .prim := by
  rcases hi with rfl | rfl | ⟨b, rfl⟩ | rfl | rfl <;> rfl

/-- The state after the turn of the primitive `i` accepted in `s`. -/
def State.issuePrimitive (i : Instr) (s : State) : State := primitiveTurn (s.accept i)

section
variable (s : State)

@[simp] theorem State.issuePrimitive_start : s.issuePrimitive .start = startIssue (s.accept .start) := rfl
@[simp] theorem State.issuePrimitive_stop : s.issuePrimitive .stop = stopIssue (s.accept .stop) := rfl
@[simp] theorem State.issuePrimitive_put (b : Byte) : s.issuePrimitive (.put b) = putIssue b (s.accept (.put b)) := rfl
@[simp] theorem State.issuePrimitive_geta : s.issuePrimitive .geta = getIssue true (s.accept .geta) := rfl
@[simp] theorem State.issuePrimitive_getn : s.issuePrimitive .getn = getIssue false (s.accept .getn) := rfl

variable (i : Instr)

theorem State.lineOnly_issuePrimitive : (s.accept i).LineOnly (s.issuePrimitive i) := lineOnly_primitiveTurn _

@[simp] theorem State.issuePrimitive_busy : (s.issuePrimitive i).busy = true := (s.lineOnly_issuePrimitive i).busy_eq

@[simp] theorem State.issuePrimitive_trace : (s.issuePrimitive i).trace = s.trace := (s.lineOnly_issuePrimitive i).trace_eq

@[simp] theorem State.issuePrimitive_replies : (s.issuePrimitive i).replies = s.replies :=
  (s.lineOnly_issuePrimitive i).replies_eq

theorem State.issuePrimitive_setHost (w : List Stimulus) (vs : List Word) :
    (s.setHost w vs).issuePrimitive i = (s.issuePrimitive i).setHost w vs :=
  primitiveTurn_setHost w vs (s.accept i)

theorem State.issuePrimitive_setWorld (w : List Stimulus) :
    State.issuePrimitive i { s with world := w } = { s.issuePrimitive i with world := w } := by
  refine (s.issuePrimitive_setHost i w s.replies).trans ?_
  rw [← s.issuePrimitive_replies i]
  rfl

end

section
variable {i : Instr} (hi : IsPrimitive i) (s : State)
include hi

/-- The opcode latched is one that `PRIM` knows, so an operation is issued. -/
theorem IsPrimitive.issue_leOp : (s.issuePrimitive i).leOp ≠ .none := by
  rcases hi with rfl | rfl | ⟨b, rfl⟩ | rfl | rfl <;> simp [startIssue, stopIssue, putIssue, getIssue]

theorem IsPrimitive.issue_ph : (s.issuePrimitive i).ph = .prim :=
  (s.lineOnly_issuePrimitive i).ph_eq.trans (hi.accept_ph s)

theorem IsPrimitive.turn (hl : s.leOp = .none) (w : List Stimulus) :
    controllerTurn { s.accept i with world := w } = State.issuePrimitive i { s with world := w } :=
  controllerTurn_prim (s := { s.accept i with world := w }) rfl hl (hi.accept_ph s)

/-- The completion of its one operation ends a primitive. -/
theorem IsPrimitive.complete_busy (ans : Answer) : (busCompletes ans (s.issuePrimitive i)).busy = false := by
  rw [busCompletes_busy ans (hi.issue_leOp s), hi.issue_ph s]
  rfl

/-! ### `exec` of a primitive: turned away, answered at once, never answered -/

theorem IsPrimitive.turnedAway : TurnedAway i := by
  intro s
  rw [exec_eq_acceptCommand s i hi.ne_init, acceptCommand]
  exact ⟨fun hb => if_pos hb, fun hb he => by simp [hb, he]⟩

theorem IsPrimitive.exec_answered {s : State} {ans : Answer} {rest : List Stimulus} (hs : s.ready = true)
    (hw : s.world = .tick :: .bus ans :: rest) :
    exec i s = .next (busCompletes ans (State.issuePrimitive i { s with world := rest })) := by
  obtain ⟨hb, he, hl⟩ := (State.ready_iff s).mp hs
  calc exec i s
    _ = .next (runController (.tick :: .bus ans :: rest) (s.accept i)) := by
      rw [exec_of_accepted hb he hi.ne_init, hw]
    _ = .next (runController (.bus ans :: rest) (State.issuePrimitive i { s with world := .bus ans :: rest })) := by
      rw [runController_tick _ _ rfl, hi.turn s hl]
    _ = .next (runController rest (busCompletes ans (State.issuePrimitive i { s with world := rest }))) := by
      rw [runController_bus _ _ _ (State.issuePrimitive_busy _ _), ← State.issuePrimitive_setWorld]
    _ = _ := by rw [runController_idle _ _ (hi.complete_busy _ _)]

/-- Without a completion the run ends with the operation issued, or with the command accepted where no turn comes. -/
theorem IsPrimitive.hangsUnanswered : HangsUnanswered i := by
  intro s n hs hw
  obtain ⟨hb, he, hl⟩ := (State.ready_iff s).mp hs
  rw [exec_of_accepted hb he hi.ne_init, hw]
  cases n with
  | zero => exact ⟨_, rfl, rfl, hi.accept_ph s, rfl, rfl, rfl, rfl, rfl⟩
  | succ n =>
    obtain ⟨w, hrun⟩ := runController_replicate_tick _ n (hi.issue_leOp { s with world := List.replicate n .tick })
    obtain ⟨op, d, b, a, heq⟩ := State.lineOnly_issuePrimitive { s with world := List.replicate n .tick } i
    rw [List.replicate_succ, runController_tick _ _ rfl, hi.turn s hl, hrun, heq]
    exact ⟨_, rfl, rfl, hi.accept_ph s, rfl, rfl, rfl, rfl, rfl⟩

end

/-! ### START and STOP -/

/-- A Start is accepted by these two statuses and no other (R23). -/
theorem startOk_eq (hs : HwStatus) : startOk hs = (hs == .start || hs == .rstart) := by
  cases hs <;> rfl

theorem startDone_returnPrimitive (ans : Answer) (s : State) :
    (startDone ans s).returnPrimitive = { s with
      ph := .idle, busy := false, leOp := .none, done := true, hwstat := ans.status
      sr := !(ans.status == .start || ans.status == .rstart)
      held := ans.status == .start || ans.status == .rstart
      trace := s.trace ++ [.start (if s.held = true then .repeated else .fresh) ans.status] } := by
  rw [← startOk_eq]
  rfl

theorem stopDone_returnPrimitive (ans : Answer) (s : State) :
    (stopDone ans s).returnPrimitive = { s with
      ph := .idle, busy := false, leOp := .none, done := true, hwstat := ans.status
      held := false
      trace := s.trace ++ [.stop] } := rfl

/-- Settles O21: the completion in `PRIM` is the rest of START() and the return, and `exec` ends with that completion. -/
theorem startCompletes : Obligations.StartCompletes := by
  have hi : IsPrimitive .start := .inl rfl
  refine ⟨by decide, hi.turnedAway, hi.hangsUnanswered, fun s ans rest hp hl hw => ?_, fun s ans rest hs hw => ?_⟩
  · rw [step_bus hw, busCompletes_prim_start (s := { s with world := rest }) ans hp hl, startDone_returnPrimitive]
  · rw [hi.exec_answered hs hw, busCompletes_prim_start ans (hi.issue_ph _) rfl, startDone_returnPrimitive]
    rfl

/-- Settles O22: the completion in `PRIM` is the rest of STOP() and the return; `HWSTAT` is then the answer's status. -/
theorem stopCompletes : Obligations.StopCompletes := by
  have hi : IsPrimitive .stop := .inr (.inl rfl)
  refine ⟨by decide, hi.turnedAway, hi.hangsUnanswered, fun s ans rest hp hl hw => ⟨ans.status, ?_⟩,
    fun s ans rest hs hw => ⟨ans.status, ?_⟩⟩
  · rw [step_bus hw, busCompletes_prim_stop (s := { s with world := rest }) ans hp hl, stopDone_returnPrimitive]
  · rw [hi.exec_answered hs hw, busCompletes_prim_stop ans (hi.issue_ph _) rfl, stopDone_returnPrimitive]
    rfl

/-! ### The stages of a primitive -/

/-- `u` is a stage of the primitive `i` accepted in `s`: accepted, issued or completed. -/
def PrimitiveStage (i : Instr) (s u : State) : Prop :=
  u = s.accept i ∨ u = s.issuePrimitive i ∨ ∃ ans, u = busCompletes ans (s.issuePrimitive i)

theorem PrimitiveStage.replies {i : Instr} {s u : State} (h : PrimitiveStage i s u) : u.replies = s.replies := by
  rcases h with rfl | rfl | ⟨ans, rfl⟩
  · rfl
  · exact s.issuePrimitive_replies i
  · rw [busCompletes_replies, s.issuePrimitive_replies i]

section
variable {i : Instr} (hi : IsPrimitive i) {s u : State}
include hi

/-- A host's read, and a stimulus taken off the world, leave the stage as it is. -/
theorem PrimitiveStage.read (h : PrimitiveStage i s u) (w : List Stimulus) (vs : List Word) :
    PrimitiveStage i (s.setHost w (s.replies ++ vs)) (u.setHost w (u.replies ++ vs)) := by
  rw [h.replies]
  rcases h with rfl | rfl | ⟨ans, rfl⟩
  · exact .inl rfl
  · exact .inr (.inl (s.issuePrimitive_setHost i w _).symm)
  · exact .inr (.inr ⟨ans, by rw [s.issuePrimitive_setHost i, busCompletes_prim_setHost ans (hi.issue_ph s)]⟩)

/-- A turn issues the operation of an accepted primitive, and does nothing while it is in flight. -/
theorem PrimitiveStage.turn (h : PrimitiveStage i s u) (hl : s.leOp = .none) (hb : u.busy = true) :
    PrimitiveStage i s (controllerTurn u) := by
  rcases h with rfl | rfl | ⟨ans, rfl⟩
  · exact .inr (.inl (hi.turn s hl s.world))
  · exact .inr (.inl (controllerTurn_of_waiting (.inl (hi.issue_leOp s))))
  · exact absurd (hb.symm.trans (hi.complete_busy s ans)) (by simp)

/-- A completion ends an issued primitive, and before the issue there is nothing to complete. -/
theorem PrimitiveStage.bus (h : PrimitiveStage i s u) (hl : s.leOp = .none) (hb : u.busy = true) (ans : Answer) :
    PrimitiveStage i s (busCompletes ans u) := by
  rcases h with rfl | rfl | ⟨ans', rfl⟩
  · exact .inl (busCompletes_of_none ans hl)
  · exact .inr (.inr ⟨ans, rfl⟩)
  · exact absurd (hb.symm.trans (hi.complete_busy s ans')) (by simp)

/-- What can be reached of a primitive is one of its stages, but for the world and more replies. -/
theorem IsPrimitive.stage_of_reaches {t : State} (hs : s.ready = true) (h : Reaches i s t) :
    ∃ w vs, PrimitiveStage i (s.setHost w (s.replies ++ vs)) t := by
  obtain ⟨hb, he, hl⟩ := (State.ready_iff s).mp hs
  obtain ⟨n, u, hu, hrun⟩ : ∃ n, CommandRun i s n t := h.elim (execIsAcceptanceThenSteps s t i hb hi.ne_init) id
  cases hu.symm.trans (exec_of_accepted (s := { s with world := [] }) hb he hi.ne_init)
  refine hrun.keeps (fun u => ∃ w vs, PrimitiveStage i (s.setHost w (s.replies ++ vs)) u) ?_ ?_ ?_ ?_
  · exact ⟨s.world, [], .inl (by rw [List.append_nil]; rfl)⟩
  · rintro u w vs ⟨w', vs', hu⟩
    exact ⟨w, vs' ++ vs, List.append_assoc s.replies vs' vs ▸ hu.read hi w vs⟩
  · rintro u hb ⟨w, vs, hu⟩
    exact ⟨w, vs, hu.turn hi hl hb⟩
  · rintro u ans hb ⟨w, vs, hu⟩
    exact ⟨w, vs, hu.bus hi hl hb ans⟩

end

/-! ### The frame of the primitives -/

/-- The elements that no primitive writes (R80, R100). -/
structure State.SameOutsidePrimitives (s u : State) : Prop where
  buf : u.buf = s.buf
  retry : u.retry = s.retry
  idx : u.idx = s.idx
  rc : u.rc = s.rc
  rcp : u.rcp = s.rcp
  en : u.en = s.en
  div : u.div = s.div
  cfg : u.cfg = s.cfg

theorem State.SameOutsidePrimitives.trans {s u v : State} (hsu : s.SameOutsidePrimitives u)
    (huv : u.SameOutsidePrimitives v) : s.SameOutsidePrimitives v :=
  ⟨huv.buf.trans hsu.buf, huv.retry.trans hsu.retry, huv.idx.trans hsu.idx, huv.rc.trans hsu.rc, huv.rcp.trans hsu.rcp,
    huv.en.trans hsu.en, huv.div.trans hsu.div, huv.cfg.trans hsu.cfg⟩

theorem State.accept_sameOutside (i : Instr) (s : State) : s.SameOutsidePrimitives (s.accept i) :=
  ⟨rfl, rfl, rfl, rfl, rfl, rfl, rfl, rfl⟩

theorem State.LineOnly.sameOutside {s u : State} (h : s.LineOnly u) : s.SameOutsidePrimitives u := by
  obtain ⟨op, d, b, a, rfl⟩ := h
  exact ⟨rfl, rfl, rfl, rfl, rfl, rfl, rfl, rfl⟩

theorem busCompletes_prim_sameOutside {s : State} (ans : Answer) (hp : s.ph = .prim) :
    s.SameOutsidePrimitives (busCompletes ans s) := by
  cases hl : s.leOp with
  | none => rw [busCompletes_of_none ans hl]; exact ⟨rfl, rfl, rfl, rfl, rfl, rfl, rfl, rfl⟩
  | start => rw [busCompletes_prim_start ans hp hl]; constructor <;> simp [startDone]
  | stop => rw [busCompletes_prim_stop ans hp hl]; constructor <;> simp [stopDone]
  | tx b => rw [busCompletes_prim_tx ans hp hl]; constructor <;> simp [putDone]
  | rx a => rw [busCompletes_prim_rx ans hp hl]; constructor <;> simp [getDone]

/-- The elements that only some primitives write, unchanged where `i` is none of those (R20, R87). -/
structure KeepsOthersResults (i : Instr) (s u : State) : Prop where
  sr : i ≠ .start → u.sr = s.sr
  ac : (∀ b, i ≠ .put b) → u.ac = s.ac
  receive : i ≠ .geta → i ≠ .getn → u.data = s.data ∧ u.ackPol = s.ackPol
  held : i = .geta ∨ i = .getn → u.held = s.held

section
variable {i : Instr} (hi : IsPrimitive i) {s u : State}
include hi

theorem IsPrimitive.issue_keepsOthersResults (s : State) : KeepsOthersResults i s (s.issuePrimitive i) := by
  rcases hi with rfl | rfl | ⟨b, rfl⟩ | rfl | rfl
  · exact ⟨fun _ => rfl, fun _ => rfl, fun _ _ => ⟨rfl, rfl⟩, fun _ => rfl⟩
  · exact ⟨fun _ => rfl, fun _ => rfl, fun _ _ => ⟨rfl, rfl⟩, fun _ => rfl⟩
  · exact ⟨fun _ => rfl, fun _ => rfl, fun _ _ => ⟨rfl, rfl⟩, fun _ => rfl⟩
  · exact ⟨fun _ => rfl, fun _ => rfl, fun h => (h rfl).elim, fun _ => rfl⟩
  · exact ⟨fun _ => rfl, fun _ => rfl, fun _ h => (h rfl).elim, fun _ => rfl⟩

theorem IsPrimitive.complete_keepsOthersResults (s : State) (ans : Answer) :
    KeepsOthersResults i s (busCompletes ans (s.issuePrimitive i)) := by
  rcases hi with rfl | rfl | ⟨b, rfl⟩ | rfl | rfl
  · rw [State.issuePrimitive_start, busCompletes_prim_start ans rfl rfl]
    constructor <;> simp [startDone, startIssue, State.accept]
  · rw [State.issuePrimitive_stop, busCompletes_prim_stop ans rfl rfl]
    constructor <;> simp [stopDone, stopIssue, State.accept]
  · rw [State.issuePrimitive_put, busCompletes_prim_tx ans rfl rfl]
    constructor <;> simp [putDone, putIssue, State.accept]
  · rw [State.issuePrimitive_geta, busCompletes_prim_rx ans rfl rfl]
    constructor <;> simp [getDone, getIssue, State.accept]
  · rw [State.issuePrimitive_getn, busCompletes_prim_rx ans rfl rfl]
    constructor <;> simp [getDone, getIssue, State.accept]

theorem PrimitiveStage.sameOutside (h : PrimitiveStage i s u) : s.SameOutsidePrimitives u := by
  have haccept := s.accept_sameOutside i
  have hissue := haccept.trans (s.lineOnly_issuePrimitive i).sameOutside
  rcases h with rfl | rfl | ⟨ans, rfl⟩
  · exact haccept
  · exact hissue
  · exact hissue.trans (busCompletes_prim_sameOutside ans (hi.issue_ph s))

theorem PrimitiveStage.keepsOthersResults (h : PrimitiveStage i s u) : KeepsOthersResults i s u := by
  rcases h with rfl | rfl | ⟨ans, rfl⟩
  · exact ⟨fun _ => rfl, fun _ => rfl, fun _ _ => ⟨rfl, rfl⟩, fun _ => rfl⟩
  · exact hi.issue_keepsOthersResults s
  · exact hi.complete_keepsOthersResults s ans

/-- A primitive runs on with no event, or has returned with one. -/
theorem PrimitiveStage.oneEvent (h : PrimitiveStage i s u) :
    (u.busy = true ∧ u.trace = s.trace) ∨ (u.busy = false ∧ ∃ e, u.trace = s.trace ++ [e]) := by
  rcases h with rfl | rfl | ⟨ans, rfl⟩
  · exact .inl ⟨rfl, rfl⟩
  · exact .inl ⟨s.issuePrimitive_busy i, s.issuePrimitive_trace i⟩
  · obtain ⟨e, he⟩ := busCompletes_trace ans (hi.issue_leOp s)
    exact .inr ⟨hi.complete_busy s ans, e, by rw [he, s.issuePrimitive_trace i]⟩

end

/-- Settles O25: what is reached is the primitive accepted, issued or completed, and the frame holds of each. -/
theorem primitiveFrame : Obligations.PrimitiveFrame := by
  intro s t i hs (hi : IsPrimitive i) h
  obtain ⟨w, vs, hstage⟩ := hi.stage_of_reaches hs h
  have hexec (ht : exec i s = .next t) : t.replies = s.replies := by
    obtain ⟨-, ⟨d, hd, -⟩ | ⟨-, -, rfl⟩⟩ := exec_eq_next ht
    · exact absurd hd (hi.ne_init d)
    · exact runController_replies _ _
  obtain ⟨hbuf, hretry, hidx, hrc, hrcp, hen, hdiv, hcfg⟩ := hstage.sameOutside hi
  obtain ⟨hsr, hac, hreceive, hheld⟩ := hstage.keepsOthersResults hi
  exact ⟨fun j => congrArg (Memory.read · j) hbuf, hretry, hidx, hrc, hrcp, hen, hdiv, hcfg, hexec,
    ⟨vs, hstage.replies⟩, hsr, hac, hreceive, hheld, hstage.oneEvent hi⟩

end Sys2Proof.Machine
end

section
/-! PROOFS. The byte transceiver: PUT, GETA and GETN, turned away, answered and never answered. -/

namespace Sys2Proof.Machine

/-! ### PUT -/

/-- Format B as R61 places its fields: the byte from bit 12 on, the opcode at the bottom. -/
theorem encode_put (b : Byte) : encode (.put b) = 0x00000004 ||| (b.setWidth 32 <<< 12) := by
  apply BitVec.eq_of_getLsbD_eq
  intro i hi
  simp only [encode, encodeB, Instr.opcode, BitVec.getLsbD_append, BitVec.getLsbD_or, BitVec.getLsbD_shiftLeft,
    BitVec.getLsbD_setWidth]
  interval_cases i <;> simp

/-- `AC` by the status: the number of the class that the status falls in (R20, R23). -/
theorem putDone_returnPrimitive (b : Byte) (ans : Answer) (s : State) :
    (putDone b ans s).returnPrimitive = { s with
      ph := .idle, busy := false, leOp := .none, done := true, hwstat := ans.status, shift := ans.byte
      ac := match ans.status with
        | .txAck => 0
        | .txNack => 1
        | .arbLost => 2
        | .busError => 3
        | .start | .rstart | .other => 4
      held := if ans.status = .arbLost then false else s.held
      trace := s.trace ++ [.tx b ans.status] } := by
  simp only [putDone, State.complete, State.loadShift, State.emit, State.returnPrimitive]
  cases ans.status <;> rfl

/-- What PUT latches at its acceptance (R19, R69). -/
theorem State.accept_put (b : Byte) (s : State) : s.accept (.put b) = { s with
    busy := true, ph := .prim
    dOp := 4, dDir := false, dSla := 0, dReg := 0, dLen := 0, dByte := b } := by
  simp [State.accept, State.latch, descriptorOf, Instr.opcode, firstPhase]

/-- Settles O23: the completion in `PRIM` is the rest of PUT(b) and the return; `SHIFT` is then the answer's byte. -/
theorem putCompletes : Obligations.PutCompletes := by
  have hi (b : Byte) : IsPrimitive (.put b) := .inr (.inr (.inl ⟨b, rfl⟩))
  refine ⟨fun b => ⟨encode_put b, (hi b).turnedAway, (hi b).hangsUnanswered⟩,
    fun s b ans rest hp hl hw => ⟨ans.byte, ?_⟩, fun s b ans rest hs hw => ⟨ans.byte, ?_⟩⟩
  · rw [step_bus hw, busCompletes_prim_tx (s := { s with world := rest }) ans hp hl]
    exact congrArg _ (putDone_returnPrimitive b ans _)
  · rw [(hi b).exec_answered hs hw, State.issuePrimitive_put, State.accept_put,
      busCompletes_prim_tx (b := b) ans rfl rfl]
    exact congrArg _ (putDone_returnPrimitive b ans _)

/-! ### GETA and GETN -/

theorem getDone_returnPrimitive (a : Bool) (ans : Answer) (s : State) :
    (getDone a ans s).returnPrimitive = { s with
      ph := .idle, busy := false, leOp := .none, done := true, hwstat := ans.status
      shift := ans.byte, data := ans.byte
      trace := s.trace ++ [.rx ans.byte a] } := rfl

/-- A command whose turn issues a receive ends, answered at once, with the rest of GET(a) and the return. -/
theorem IsPrimitive.exec_receive {i : Instr} (hi : IsPrimitive i) {a : Bool}
    (hissue : ∀ u : State, u.issuePrimitive i = getIssue a (u.accept i)) {s : State} {ans : Answer}
    {rest : List Stimulus} (hs : s.ready = true) (hw : s.world = .tick :: .bus ans :: rest) :
    exec i s = .next (getDone a ans (getIssue a (State.accept i { s with world := rest }))).returnPrimitive := by
  have hl (u : State) : (u.issuePrimitive i).leOp = .rx a := congrArg State.leOp (hissue u)
  rw [hi.exec_answered hs hw, busCompletes_prim_rx ans (hi.issue_ph _) (hl _), hissue]

/-- Settles O24: the completion in `PRIM` is the rest of GET(a) and the return, and the two commands differ in the `a`
that their turn issues; `HWSTAT` is then the answer's status. -/
theorem receiveCommandsComplete : Obligations.ReceiveCommandsComplete := by
  have hgeta : IsPrimitive .geta := .inr (.inr (.inr (.inl rfl)))
  have hgetn : IsPrimitive .getn := .inr (.inr (.inr (.inr rfl)))
  refine ⟨by decide, hgeta.turnedAway, hgeta.hangsUnanswered, by decide, hgetn.turnedAway, hgetn.hangsUnanswered,
    fun s a ans rest hp hl hw => ⟨ans.status, ?_⟩,
    fun s ans rest hs hw => ⟨⟨ans.status, ?_⟩, ⟨ans.status, ?_⟩⟩⟩
  · rw [step_bus hw, busCompletes_prim_rx (s := { s with world := rest }) ans hp hl, getDone_returnPrimitive]
  · rw [hgeta.exec_receive State.issuePrimitive_geta hs hw, getDone_returnPrimitive]
    rfl
  · rw [hgetn.exec_receive State.issuePrimitive_getn hs hw, getDone_returnPrimitive]
    rfl

end Sys2Proof.Machine
end

section
/-! PROOFS. The transition table (R132): what a turn issues in each phase, and the rows of each phase as whole next
states. -/

namespace Sys2Proof.Machine

/-! ### What a turn does in each phase -/

theorem controllerTurn_due {s : State} (hb : s.busy = true) (hl : s.leOp = .none) :
    controllerTurn s = phaseTurn s := by
  simp [controllerTurn, hb, hl]

section
variable {s : State}

theorem phaseTurn_enter (hp : s.ph = .enter) : phaseTurn s = enterTurn s := by simp [phaseTurn, hp]
theorem phaseTurn_start1 (hp : s.ph = .start1) : phaseTurn s = startIssue s := by simp [phaseTurn, hp]
theorem phaseTurn_addrW (hp : s.ph = .addrW) : phaseTurn s = putIssue (addrByte s.dSla false) s := by
  simp [phaseTurn, hp]
theorem phaseTurn_regAddr (hp : s.ph = .regAddr) : phaseTurn s = putIssue s.dReg s := by simp [phaseTurn, hp]
theorem phaseTurn_start2 (hp : s.ph = .start2) : phaseTurn s = startIssue s := by simp [phaseTurn, hp]
theorem phaseTurn_addrR (hp : s.ph = .addrR) : phaseTurn s = putIssue (addrByte s.dSla true) s := by
  simp [phaseTurn, hp]
theorem phaseTurn_dataTx (hp : s.ph = .dataTx) : phaseTurn s = putIssue (s.buf.read s.idx.toNat) s := by
  simp [phaseTurn, hp]
theorem phaseTurn_dataRx (hp : s.ph = .dataRx) : phaseTurn s = getIssue (moreToCome s) s := by simp [phaseTurn, hp]
theorem phaseTurn_stopping (hp : s.ph = .stopping) : phaseTurn s = stopIssue s := by simp [phaseTurn, hp]
theorem phaseTurn_prim (hp : s.ph = .prim) : phaseTurn s = primitiveTurn s := by simp [phaseTurn, hp]

end

/-- Settles O27, phase by phase. -/
theorem controllerTurnIssuesThePhasesOperation : Obligations.ControllerTurnIssuesThePhasesOperation := by
  intro s t rest hb hcfg hl hw hstep
  obtain rfl : phaseTurn { s with world := rest } = t := by
    rw [step_tick hw, controllerTurn_due (s := { s with world := rest }) hb hl] at hstep
    injection hstep
  refine ⟨?_, fun hp => phaseTurn_addrW hp, fun hp => phaseTurn_regAddr hp, fun hp => phaseTurn_addrR hp,
    fun hp => phaseTurn_dataTx hp, fun hp => phaseTurn_dataRx hp, fun hp => phaseTurn_stopping hp, ?_, ?_, ?_, ?_, ?_,
    fun hp hlen => (phaseTurn_enter (by exact hp)).trans ?_,
    fun hp hlen => (phaseTurn_enter (by exact hp)).trans (if_neg hlen)⟩
  · rintro (hp | hp)
    · exact phaseTurn_start1 hp
    · exact phaseTurn_start2 hp
  iterate 5
    intro hp hop
    rw [phaseTurn_prim (by exact hp)]
    simp [primitiveTurn, hop, Instr.opcode, startIssue, stopIssue, putIssue, getIssue, State.issue]
  · rw [enterTurn, if_pos (by exact hlen), ResultCode.code_of_legal hcfg]
    rfl

/-! ### Length 0 -/

/-- What WRITE latches at its acceptance (R19, R69). -/
theorem State.accept_write (sla : SlaveAddr) (len reg : Byte) (s : State) : s.accept (.write sla len reg) = { s with
    busy := true, ph := .enter
    dOp := 8, dDir := false, dSla := sla, dReg := reg, dLen := len, dByte := 0 } := by
  simp [State.accept, State.latch, descriptorOf, Instr.opcode, firstPhase]

/-- What READ latches at its acceptance (R19, R69). -/
theorem State.accept_read (sla : SlaveAddr) (len reg : Byte) (s : State) : s.accept (.read sla len reg) = { s with
    busy := true, ph := .enter
    dOp := 9, dDir := true, dSla := sla, dReg := reg, dLen := len, dByte := 0 } := by
  simp [State.accept, State.latch, descriptorOf, Instr.opcode, firstPhase]

/-- The turn of `ENTER` ends a command of length 0 (R124). -/
theorem runController_lengthZero {s : State} {rest : List Stimulus} (hb : s.busy = true) (hl : s.leOp = .none)
    (hp : s.ph = .enter) (hlen : s.dLen = 0) (hcfg : s.cfg.legal = true) :
    runController (.tick :: rest) s = State.returnCode 0 { s with world := rest } := by
  rw [runController_tick s rest hb, controllerTurn_due (by exact hb) (by exact hl), phaseTurn_enter (by exact hp),
    enterTurn, if_pos (by exact hlen), runController_idle _ _ rfl, ResultCode.code_of_legal hcfg]

/-- Settles O26: the turn of `ENTER` returns, and nothing of the command is left to run. -/
theorem lengthZeroReturnsWithoutTouchingTheBus : Obligations.LengthZeroReturnsWithoutTouchingTheBus := by
  intro s sla reg rest hs hcfg hw
  obtain ⟨hb, he, hl⟩ := (State.ready_iff s).mp hs
  constructor
  · rw [exec_of_accepted hb he (by simp), State.accept_write, hw]
    exact congrArg _ (runController_lengthZero rfl hl rfl rfl hcfg)
  · rw [exec_of_accepted hb he (by simp), State.accept_read, hw]
    exact congrArg _ (runController_lengthZero rfl hl rfl rfl hcfg)

/-! ### The rows of each phase -/

section
variable {s : State} (ans : Answer)

/-! A completion is the rest of the procedure that issued the operation, then the rows of the phase. -/

theorem busCompletes_start1 (hp : s.ph = .start1) (hl : s.leOp = .start) :
    busCompletes ans s = afterStart1 (startDone ans s) := by
  simp [busCompletes, afterOperation, startDone, hp, hl]

theorem busCompletes_addrW {b : Byte} (hp : s.ph = .addrW) (hl : s.leOp = .tx b) :
    busCompletes ans s = afterAddrW (putDone b ans s) := by
  simp [busCompletes, afterOperation, putDone, hp, hl]

theorem busCompletes_regAddr {b : Byte} (hp : s.ph = .regAddr) (hl : s.leOp = .tx b) :
    busCompletes ans s = afterRegAddr (putDone b ans s) := by
  simp [busCompletes, afterOperation, putDone, hp, hl]

theorem busCompletes_start2 (hp : s.ph = .start2) (hl : s.leOp = .start) :
    busCompletes ans s = afterStart2 (startDone ans s) := by
  simp [busCompletes, afterOperation, startDone, hp, hl]

theorem busCompletes_addrR {b : Byte} (hp : s.ph = .addrR) (hl : s.leOp = .tx b) :
    busCompletes ans s = afterAddrR (putDone b ans s) := by
  simp [busCompletes, afterOperation, putDone, hp, hl]

theorem busCompletes_dataTx {b : Byte} (hp : s.ph = .dataTx) (hl : s.leOp = .tx b) :
    busCompletes ans s = afterDataTx (putDone b ans s) := by
  simp [busCompletes, afterOperation, putDone, hp, hl]

theorem busCompletes_dataRx {a : Bool} (hp : s.ph = .dataRx) (hl : s.leOp = .rx a) :
    busCompletes ans s = afterDataRx (getDone a ans s) := by
  simp [busCompletes, afterOperation, getDone, hp, hl]

end

/-! The results of the procedures, as the rows test them. -/

/-- `AC` holds the number of one class only. -/
theorem AckClass.code_inj {c d : AckClass} : c.code = d.code ↔ c = d := by
  cases c <;> cases d <;> decide

@[simp] theorem putDone_ac_eq_code {b : Byte} {ans : Answer} {s : State} {c : AckClass} :
    (putDone b ans s).ac = c.code ↔ ackClass ans.status = c := AckClass.code_inj

@[simp] theorem startDone_sr {ans : Answer} {s : State} : (startDone ans s).sr = !startOk ans.status := rfl

/-- A failed attempt of PREFIX(), as one update (R125). -/
theorem retryOrGiveUp_eq (c : ResultCode) (s : State) : retryOrGiveUp c s = { s with
    retry := s.retry - 1
    ph := if s.retry - 1 = 0 then .stopping else .start1
    rcp := if s.retry - 1 = 0 then c.code s.cfg else s.rcp } := by
  unfold retryOrGiveUp
  split_ifs with hlast
  · rw [hlast]; rfl
  · rfl

/-- A data phase goes on to the next byte while one is left, and then decides that all went well (R128, R130). -/
theorem nextByte_eq {s : State} (hidx : s.idx.toNat < s.dLen.toNat) (hcfg : s.cfg.legal = true) :
    (if s.idx.toNat + 1 < s.dLen.toNat then { s with idx := s.idx + 1 }
      else { s with idx := s.idx + 1 }.decideResult .ok : State) = { s with
        idx := s.idx + 1
        ph := if s.idx.toNat + 1 = s.dLen.toNat then .stopping else s.ph
        rcp := if s.idx.toNat + 1 = s.dLen.toNat then 0 else s.rcp } := by
  by_cases hlast : s.idx.toNat + 1 = s.dLen.toNat
  · rw [if_neg (by omega), if_pos hlast, if_pos hlast]
    simp [State.decideResult, ResultCode.code_of_legal hcfg]
  · rw [if_pos (by omega), if_neg hlast, if_neg hlast]

/-- Settles O28. -/
theorem start1RowsOfTheTable : Obligations.Start1RowsOfTheTable := by
  intro s ans rest hp hl hcfg hw
  rw [step_bus hw, busCompletes_start1 (s := { s with world := rest }) ans hp hl, afterStart1, startDone_sr]
  cases hok : startOk ans.status with
  | true => simp [startDone, State.complete, State.emit, startKind, hok]
  | false =>
    rw [if_neg (by simp), retryOrGiveUp_eq, ResultCode.code_of_legal (by exact hcfg)]
    simp only [startDone, hok]
    rfl

/-- Settles O29. -/
theorem addrWRowsOfTheTable : Obligations.AddrWRowsOfTheTable := by
  intro s b ans rest hp hl hcfg hw
  refine ⟨ans.byte, ?_⟩
  rw [step_bus hw, busCompletes_addrW (s := { s with world := rest }) ans hp hl, afterAddrW]
  simp only [putDone_ac_eq_code]
  cases hk : ackClass ans.status with
  | ack => simp [putDone, State.complete, State.loadShift, State.emit, hk]
  | nack =>
    simp [retryOrGiveUp_eq, putDone, State.complete, State.loadShift, State.emit, hk, ResultCode.code_of_legal hcfg]
  | arbitrationLost | busError | unknown =>
    simp [State.decideResult, putDone, State.complete, State.loadShift, State.emit, hk, ResultCode.code_of_legal hcfg]

/-- Settles O30. -/
theorem regAddrRowsOfTheTable : Obligations.RegAddrRowsOfTheTable := by
  intro s b ans rest hp hl hcfg hw
  refine ⟨ans.byte, ?_⟩
  rw [step_bus hw, busCompletes_regAddr (s := { s with world := rest }) ans hp hl, afterRegAddr]
  simp only [putDone_ac_eq_code]
  cases hk : ackClass ans.status with
  | ack =>
    cases s.dDir with
    | true => simp [putDone, State.complete, State.loadShift, State.emit, hk]
    | false => simp [putDone, State.complete, State.loadShift, State.emit, hk]
  | nack | arbitrationLost | busError | unknown =>
    simp [State.decideResult, putDone, State.complete, State.loadShift, State.emit, hk, ResultCode.code_of_legal hcfg]

/-- Settles O31. -/
theorem readAddressRowsOfTheTable : Obligations.ReadAddressRowsOfTheTable := by
  intro s ans rest hcfg hw
  refine ⟨fun hp hl => ?_, fun b hp hl => ⟨ans.byte, ?_⟩⟩
  · rw [step_bus hw, busCompletes_start2 (s := { s with world := rest }) ans hp hl, afterStart2, startDone_sr]
    cases hok : startOk ans.status with
    | true => simp [startDone, State.complete, State.emit, startKind, hok]
    | false =>
      simp [State.decideResult, startDone, State.complete, State.emit, startKind, hok, ResultCode.code_of_legal hcfg]
  · rw [step_bus hw, busCompletes_addrR (s := { s with world := rest }) ans hp hl, afterAddrR]
    simp only [putDone_ac_eq_code]
    by_cases hk : ackClass ans.status = .ack
    · simp [putDone, State.complete, State.loadShift, State.emit, hk]
    · simp [State.decideResult, putDone, State.complete, State.loadShift, State.emit, hk,
        ResultCode.code_of_legal hcfg]

/-- Settles O32. -/
theorem dataTxRowsOfTheTable : Obligations.DataTxRowsOfTheTable := by
  intro s b ans rest hp hl hidx hcfg hw
  refine ⟨ans.byte, ?_⟩
  rw [step_bus hw, busCompletes_dataTx (s := { s with world := rest }) ans hp hl, afterDataTx,
    nextByte_eq (by exact hidx) (by exact hcfg)]
  simp only [putDone_ac_eq_code]
  cases hk : ackClass ans.status with
  | ack =>
    by_cases hlast : s.idx.toNat + 1 = s.dLen.toNat
    · simp [putDone, State.complete, State.loadShift, State.emit, hk, hlast]
    · simp [putDone, State.complete, State.loadShift, State.emit, hk, hlast, hp]
  | nack | arbitrationLost | busError | unknown =>
    simp [State.decideResult, putDone, State.complete, State.loadShift, State.emit, hk, ResultCode.code_of_legal hcfg]

/-- The rows of `DATA_RX` as one update: the byte received is stored at `IDX`. -/
theorem afterDataRx_eq {s : State} (hidx : s.idx.toNat < s.dLen.toNat) (hcfg : s.cfg.legal = true) :
    afterDataRx s = { s with
      buf := s.buf.write s.idx.toNat s.data
      idx := s.idx + 1
      ph := if s.idx.toNat + 1 = s.dLen.toNat then .stopping else s.ph
      rcp := if s.idx.toNat + 1 = s.dLen.toNat then 0 else s.rcp } :=
  nextByte_eq (s := storeData s) hidx hcfg

/-- Settles O33: the buffer is the old one with the byte received written at `IDX`. -/
theorem dataRxRowsOfTheTable : Obligations.DataRxRowsOfTheTable := by
  intro s a ans rest hp hl hbuf hidx hcfg hw
  refine ⟨ans.status, s.buf.write s.idx.toNat ans.byte, ?_, Memory.read_write_eq ans.byte hbuf,
    fun j hj => Memory.read_write_ne s.buf ans.byte hj⟩
  rw [step_bus hw, busCompletes_dataRx (s := { s with world := rest }) ans hp hl,
    afterDataRx_eq (by exact hidx) (by exact hcfg)]
  simp [getDone, State.complete, State.loadShift, State.emit, hp]

/-- Settles O34: the Stop completes and the command returns, in one step. -/
theorem stoppingReturnsThePendingCode : Obligations.StoppingReturnsThePendingCode := fun s ans rest hp hl hw =>
  ⟨ans.status, by rw [step_bus hw, busCompletes_stopping (s := { s with world := rest }) ans hp hl]; rfl⟩

/-- Settles O35: the acknowledgement leads to `REGADDR`, whose turn issues `D_REG`. -/
theorem addressAckIsFollowedByTheRegisterAddress : Obligations.AddressAckIsFollowedByTheRegisterAddress := by
  intro s b ans rest hb hp hl hack hw
  have hbus : step s = .next { putDone b ans { s with world := .tick :: rest } with ph := .regAddr } := by
    rw [step_bus hw, busCompletes_addrW (s := { s with world := .tick :: rest }) ans hp hl, afterAddrW,
      if_pos (putDone_ac_eq_code.mpr (by rw [hack]; rfl))]
  refine ⟨_, (runSteps_of_next hbus).trans (runSteps_of_next (step_tick rfl)), ?_, ?_⟩
  · rw [controllerTurn_due (by exact hb) rfl, phaseTurn_regAddr rfl]
    rfl
  · simp [putDone, hack]

end Sys2Proof.Machine
end

section
/-! PROOFS. A bus that answers at once: the machine over a list of answers, and that the procedures of R122, R123, R125
agree with it (R133). -/

namespace Sys2Proof.Machine

/-! ### The world and the replies, which the controller does not read -/

section
variable (w : List Stimulus) (vs : List Word) (s : State)

theorem phaseTurn_setHost : phaseTurn (s.setHost w vs) = (phaseTurn s).setHost w vs := by
  unfold phaseTurn
  rw [show (s.setHost w vs).ph = s.ph from rfl]
  cases s.ph with
  | enter =>
    simp only [enterTurn, apply_ite (State.setHost w vs)]
    rfl
  | prim => exact primitiveTurn_setHost w vs s
  | idle | start1 | addrW | regAddr | start2 | addrR | dataTx | dataRx | stopping => rfl

theorem controllerTurn_setHost : controllerTurn (s.setHost w vs) = (controllerTurn s).setHost w vs := by
  simp only [controllerTurn, phaseTurn_setHost, apply_ite (State.setHost w vs)]
  rfl

/-- Both sides branch on the same elements, so the rows agree branch by branch. -/
theorem afterOperation_setHost : afterOperation (s.setHost w vs) = (afterOperation s).setHost w vs := by
  unfold afterOperation
  rw [show (s.setHost w vs).ph = s.ph from rfl]
  cases s.ph with
  | idle | enter | stopping | prim => rfl
  | start1 | addrW =>
    simp only [afterStart1, afterAddrW, retryOrGiveUp_eq, apply_ite (State.setHost w vs)]
    rfl
  | regAddr | start2 | addrR | dataTx | dataRx =>
    simp only [afterRegAddr, afterStart2, afterAddrR, afterDataTx, afterDataRx, apply_ite (State.setHost w vs)]
    rfl

theorem busCompletes_setHost (ans : Answer) :
    busCompletes ans (s.setHost w vs) = (busCompletes ans s).setHost w vs := by
  unfold busCompletes
  rw [show (s.setHost w vs).leOp = s.leOp from rfl]
  cases s.leOp with
  | none => rfl
  | start => exact afterOperation_setHost w vs (startDone ans s)
  | stop => exact afterOperation_setHost w vs (stopDone ans s)
  | tx b => exact afterOperation_setHost w vs (putDone b ans s)
  | rx a => exact afterOperation_setHost w vs (getDone a ans s)

end

/-- `s` with another world. -/
def State.setWorld (w : List Stimulus) (s : State) : State := { s with world := w }

theorem controllerTurn_setWorld (w : List Stimulus) (s : State) :
    controllerTurn (s.setWorld w) = (controllerTurn s).setWorld w :=
  (controllerTurn_setHost w s.replies s).trans (by rw [← controllerTurn_replies s]; rfl)

theorem busCompletes_setWorld (ans : Answer) (w : List Stimulus) (s : State) :
    busCompletes ans (s.setWorld w) = (busCompletes ans s).setWorld w :=
  (busCompletes_setHost w s.replies s ans).trans (by rw [← busCompletes_replies s ans]; rfl)

theorem runController_tick_setWorld {s : State} (hb : s.busy = true) (v w : List Stimulus) :
    runController (.tick :: w) (s.setWorld v) = runController w ((controllerTurn s).setWorld w) :=
  (runController_tick (s.setWorld v) w hb).trans (congrArg _ (controllerTurn_setWorld w s))

theorem runController_bus_setWorld {s : State} (hb : s.busy = true) (ans : Answer) (v w : List Stimulus) :
    runController (.bus ans :: w) (s.setWorld v) = runController w ((busCompletes ans s).setWorld w) :=
  (runController_bus (s.setWorld v) w ans hb).trans (congrArg _ (busCompletes_setWorld ans w s))

/-! ### The machine over a list of answers -/

/-- The controller on a bus that completes each operation at once, with these answers, and then no more. -/
def runPrompt : List Answer → State → State
  | [], s => controllerTurn s
  | ans :: rest, s => if s.busy then runPrompt rest (busCompletes ans (controllerTurn s)) else s

theorem controllerTurn_idle {s : State} (hb : s.busy = false) : controllerTurn s = s := by simp [controllerTurn, hb]

theorem runPrompt_idle (answers : List Answer) {s : State} (hb : s.busy = false) : runPrompt answers s = s := by
  cases answers with
  | nil => exact controllerTurn_idle hb
  | cons ans rest => simp [runPrompt, hb]

theorem runPrompt_cons {s : State} (hb : s.busy = true) (ans : Answer) (rest : List Answer) :
    runPrompt (ans :: rest) s = runPrompt rest (busCompletes ans (controllerTurn s)) :=
  if_pos hb

/-- A turn that ends the command leaves nothing in flight. -/
theorem leOp_of_turn_ends {s : State} (hb : s.busy = true) (h : (controllerTurn s).busy = false) :
    (controllerTurn s).leOp = .none := by
  rcases controllerTurn_cases s with ⟨⟨-, hl, -⟩, -, heq⟩ | ⟨-, -, heq⟩ | ⟨-, hline⟩
  · rw [heq]; exact hl
  · rw [heq] at h; exact absurd (hb.symm.trans h) (by simp)
  · rw [hline.busy_eq] at h; exact absurd (hb.symm.trans h) (by simp)

/-- The stimuli of `promptWorld` behind the turn of `ENTER`. -/
def promptTail (answers : List Answer) : List Stimulus := answers.flatMap (fun ans => [.tick, .bus ans]) ++ [.tick]

theorem promptTail_cons (ans : Answer) (rest : List Answer) :
    promptTail (ans :: rest) = .tick :: .bus ans :: promptTail rest := rfl

/-- The machine's run over the stimuli of a prompt bus is the run over its answers, but for the world. -/
theorem runController_promptTail (answers : List Answer) (v : List Stimulus) (s : State) :
    ∃ w, runController (promptTail answers) (s.setWorld v) = (runPrompt answers s).setWorld w := by
  induction answers generalizing v s with
  | nil =>
    by_cases hb : s.busy = true
    · exact ⟨[], runController_tick_setWorld hb v []⟩
    · replace hb : s.busy = false := by simpa using hb
      exact ⟨v, by rw [runPrompt_idle [] hb, runController_idle _ _ (by exact hb)]⟩
  | cons ans rest ih =>
    by_cases hb : s.busy = true
    · rw [promptTail_cons, runController_tick_setWorld hb, runPrompt_cons hb]
      by_cases hu : (controllerTurn s).busy = true
      · rw [runController_bus_setWorld hu]
        exact ih _ _
      · replace hu : (controllerTurn s).busy = false := by simpa using hu
        rw [busCompletes_of_none ans (leOp_of_turn_ends hb hu), runPrompt_idle rest hu]
        exact ⟨_, runController_idle _ _ hu⟩
    · replace hb : s.busy = false := by simpa using hb
      exact ⟨v, by rw [runPrompt_idle _ hb, runController_idle _ _ (by exact hb)]⟩

/-! ### Following a procedure -/

/-- What a procedure keeps in its state while the machine in `s` stands in a phase of its own: the phase, the pending
code and the world of where it began; every other element is the machine's. -/
def State.procView (s0 s : State) : State := { s with ph := s0.ph, rcp := s0.rcp, world := s0.world }

@[simp] theorem State.procView_sr (s0 s : State) : (s0.procView s).sr = s.sr := rfl
@[simp] theorem State.procView_ac (s0 s : State) : (s0.procView s).ac = s.ac := rfl

/-- The machine, in the end in `t`, has followed a procedure: it hangs where the procedure hangs, and where that ended
`Q t` holds of its value, the answers left and its state. -/
def Follows {α : Type} (s0 : State) (Q : State → α → List Answer → State → Prop) (t : State) : ProcResult α → Prop
  | .hung p => p = s0.procView t
  | .ended v rest p => Q t v rest p

theorem Follows.andThen {α β : Type} {s0 t : State} {Q : State → α → List Answer → State → Prop}
    {Q' : State → β → List Answer → State → Prop} {r : ProcResult α} {k : α → List Answer → State → ProcResult β}
    (h : Follows s0 Q t r) (hk : ∀ v rest p, Q t v rest p → Follows s0 Q' t (k v rest p)) :
    Follows s0 Q' t (r.andThen k) := by
  cases r with
  | ended v rest p => exact hk v rest p h
  | hung p => exact h

/-- The machine stands in phase `p` of a composite with direction `dir`, its next operation not yet issued. -/
structure Due (dir : Bool) (p : Phase) (s : State) : Prop where
  busy : s.busy = true
  leOp : s.leOp = .none
  ph : s.ph = p
  dir : s.dDir = dir
  len : 0 < s.dLen.toNat

theorem Due.turn {dir : Bool} {p : Phase} {s : State} (h : Due dir p s) : controllerTurn s = phaseTurn s :=
  controllerTurn_due h.busy h.leOp

/-- A procedure's call of START, STOP, PUT or GET: the two halves of the operation around its `await`. -/
def callHalves (issue : State → State) (done : Answer → State → State) : List Answer → State → ProcResult Unit
  | [], s => .hung (issue s)
  | ans :: rest, s => .ended () rest (done ans (issue s))

theorem callStart_eq : callStart = callHalves startIssue startDone := by
  funext answers s; cases answers <;> rfl

theorem callStop_eq : callStop = callHalves stopIssue stopDone := by
  funext answers s; cases answers <;> rfl

theorem callPut_eq (b : Byte) : callPut b = callHalves (putIssue b) (putDone b) := by
  funext answers s; cases answers <;> rfl

theorem callGet_eq (a : Bool) : callGet a = callHalves (getIssue a) (getDone a) := by
  funext answers s; cases answers <;> rfl

/-- The machine follows a call by the turn that issues its operation and the completion, which goes on with `after`. -/
theorem follows_call {β : Type} {s0 m : State} {issue : State → State} {done : Answer → State → State}
    {after : State → State} {Q : State → β → List Answer → State → Prop}
    {k : Unit → List Answer → State → ProcResult β} (hb : m.busy = true) (hturn : controllerTurn m = issue m)
    (hbus : ∀ ans, busCompletes ans (issue m) = after (done ans (issue m)))
    (hissue : issue (s0.procView m) = s0.procView (issue m))
    (hdone : ∀ ans u, done ans (s0.procView u) = s0.procView (done ans u))
    (hk : ∀ ans rest, Follows s0 Q (runPrompt rest (after (done ans (issue m))))
      (k () rest (s0.procView (done ans (issue m))))) (answers : List Answer) :
    Follows s0 Q (runPrompt answers m) ((callHalves issue done answers (s0.procView m)).andThen k) := by
  cases answers with
  | nil => exact hissue.trans (congrArg _ hturn.symm)
  | cons ans rest =>
    rw [runPrompt_cons hb, hturn, hbus]
    show Follows s0 Q _ (k () rest (done ans (issue (s0.procView m))))
    rw [hissue, hdone]
    exact hk ans rest

/-- The procedure ended where the machine, having used the same answers, is in a state with `Post`. -/
def Arrives {α : Type} (s0 : State) (Post : α → State → Prop) (t : State) (v : α) (rest : List Answer) (p : State) :
    Prop :=
  ∃ m, t = runPrompt rest m ∧ p = s0.procView m ∧ Post v m

theorem Arrives.here {α : Type} {s0 m : State} {Post : α → State → Prop} {v : α} {rest : List Answer} (h : Post v m) :
    Arrives s0 Post (runPrompt rest m) v rest (s0.procView m) :=
  ⟨m, rfl, rfl, h⟩

/-- The machine has decided the code `c` and is due to issue the Stop. -/
def Decided (dir : Bool) (c : ResultCode) (m : State) : Prop := Due dir .stopping m ∧ m.rcp = c.code m.cfg

theorem Due.decideResult {dir : Bool} {p : Phase} {s : State} (h : Due dir p s) (c : ResultCode) :
    Decided dir c (s.decideResult c) :=
  ⟨⟨h.busy, h.leOp, rfl, h.dir, h.len⟩, rfl⟩

/-- From one phase to another, whatever becomes of the counters. -/
theorem Due.move {dir : Bool} {p : Phase} {s : State} (h : Due dir p s) (p' : Phase) (r i : Byte) :
    Due dir p' { s with ph := p', retry := r, idx := i } :=
  ⟨h.busy, h.leOp, rfl, h.dir, h.len⟩

/-- `ENTER` of a command of some length: the counter is loaded (R132). -/
def State.loaded (s : State) : State := { s with retry := s.cfg.maxRestarts, ph := .start1 }

/-! A completion leaves the machine due again, in the phase it stood in. -/

section
variable {dir : Bool} {p : Phase} {s : State} (h : Due dir p s) (ans : Answer)
include h

theorem due_startDone : Due dir p (startDone ans (startIssue s)) := by
  constructor <;> simp [startDone, startIssue, h.busy, h.ph, h.dir, h.len]

theorem due_putDone (b : Byte) : Due dir p (putDone b ans (putIssue b s)) := by
  constructor <;> simp [putDone, putIssue, h.busy, h.ph, h.dir, h.len]

theorem due_getDone (a : Bool) : Due dir p (getDone a ans (getIssue a s)) := by
  constructor <;> simp [getDone, getIssue, h.busy, h.ph, h.dir, h.len]

end

/-- Where PREFIX() leads the machine: on to `p`, or to the Stop with its code. -/
def AfterPrefix (dir : Bool) (p : Phase) (r : Option ResultCode) (m : State) : Prop :=
  match r with
  | none => Due dir p m
  | some c => Decided dir c m

/-! ### PREFIX() -/

section
variable {s0 : State} {dir : Bool}

/-- A failed attempt, in the loop and in the table (R125). -/
theorem follows_failedAttempt {n : Nat} (c : ResultCode) {q : State} {p : Phase} (hq : Due dir p q)
    (hn : q.retry.toNat = n + 1) (rest : List Answer)
    (ih : ∀ m, Due dir .start1 m → m.retry.toNat = n → 0 < n →
      Follows s0 (Arrives s0 (AfterPrefix dir .regAddr)) (runPrompt rest m) (prefixLoop n rest (s0.procView m))) :
    Follows s0 (Arrives s0 (AfterPrefix dir .regAddr)) (runPrompt rest (retryOrGiveUp c q))
      (if q.retry - 1 = 0 then .ended (some c) rest (s0.procView { q with retry := q.retry - 1 })
        else prefixLoop n rest (s0.procView { q with retry := q.retry - 1 })) := by
  have hsub : (q.retry - 1).toNat = n := by rw [retry_sub_one (by omega), hn]; rfl
  by_cases hlast : q.retry - 1 = 0
  · rw [if_pos hlast, retryOrGiveUp, if_pos hlast, hlast]
    exact Arrives.here ((hq.move p 0 q.idx).decideResult c)
  · rw [if_neg hlast, retryOrGiveUp, if_neg hlast]
    exact ih _ (hq.move .start1 _ q.idx) hsub (hsub ▸ byte_pos_of_ne_zero hlast)

/-- What PREFIX() and the table do with the answer to SLA+W (R125, R126). -/
theorem follows_afterAddrW {n : Nat} {q : State} {p : Phase} (hq : Due dir p q) (hn : q.retry.toNat = n + 1)
    (rest : List Answer)
    (ih : ∀ m, Due dir .start1 m → m.retry.toNat = n → 0 < n →
      Follows s0 (Arrives s0 (AfterPrefix dir .regAddr)) (runPrompt rest m) (prefixLoop n rest (s0.procView m))) :
    Follows s0 (Arrives s0 (AfterPrefix dir .regAddr)) (runPrompt rest (afterAddrW q))
      (if q.ac = AckClass.nack.code then
        if q.retry - 1 = 0 then .ended (some .addrFailed) rest (s0.procView { q with retry := q.retry - 1 })
        else prefixLoop n rest (s0.procView { q with retry := q.retry - 1 })
      else if q.ac = AckClass.ack.code then .ended none rest (s0.procView q)
      else .ended (some .hwFault) rest (s0.procView q)) := by
  unfold afterAddrW
  by_cases hnack : q.ac = AckClass.nack.code
  · have hack : q.ac ≠ AckClass.ack.code := by rw [hnack]; decide
    rw [if_pos hnack, if_neg hack, if_pos hnack]
    exact follows_failedAttempt .addrFailed hq hn rest ih
  · rw [if_neg hnack, if_neg hnack]
    split_ifs with hack
    · exact Arrives.here (hq.move .regAddr q.retry q.idx)
    · exact Arrives.here (hq.decideResult .hwFault)

theorem follows_prefixLoop (n : Nat) (answers : List Answer) {m : State} (hm : Due dir .start1 m)
    (hn : m.retry.toNat = n) (hpos : 0 < n) :
    Follows s0 (Arrives s0 (AfterPrefix dir .regAddr)) (runPrompt answers m)
      (prefixLoop n answers (s0.procView m)) := by
  induction n generalizing answers m with
  | zero => omega
  | succ n ih =>
    rw [prefixLoop, callStart_eq]
    refine follows_call hm.busy (hm.turn.trans (phaseTurn_start1 hm.ph)) (fun ans => busCompletes_start1 ans hm.ph rfl)
      rfl (fun _ _ => rfl) (fun ans rest => ?_) answers
    have hq := due_startDone hm ans
    have hqn : (startDone ans (startIssue m)).retry.toNat = n + 1 := hn
    generalize startDone ans (startIssue m) = q at hq hqn ⊢
    unfold afterStart1
    by_cases hsr : q.sr = true
    · rw [if_neg (by simp [hsr]), if_pos (by exact hsr)]
      exact follows_failedAttempt .startFailed hq hqn rest fun m' hm' hn' hpos' => ih rest hm' hn' hpos'
    · rw [if_pos (by simpa using hsr), if_neg (by exact hsr), callPut_eq]
      have hm' := hq.move .addrW q.retry q.idx
      refine follows_call hm'.busy (hm'.turn.trans (phaseTurn_addrW rfl)) (fun ans => busCompletes_addrW ans rfl rfl)
        rfl (fun _ _ => rfl) (fun ans' rest' => ?_) rest
      have hr := due_putDone hm' ans' (addrByte q.dSla false)
      exact follows_afterAddrW hr hqn rest' fun m' hm' hn' hpos' => ih rest' hm' hn' hpos'

/-- Where the register address leads the machine: on to the second half of its command, or to the Stop with its code.
The index is set to 0 behind PREFIX() in a WRITE and with the last row of PREFIX() in the table. -/
def PrefixEnds (s0 : State) (dir : Bool) (t : State) (r : Option ResultCode) (rest : List Answer) (p : State) : Prop :=
  match r with
  | some c => Arrives s0 (Decided dir) t c rest p
  | none => ∃ q, t = runPrompt rest (if q.dDir then { q with ph := .start2 } else { q with idx := 0, ph := .dataTx }) ∧
      p = s0.procView q ∧ Due dir .regAddr q

theorem follows_afterRegAddr {q : State} (hq : Due dir .regAddr q) (rest : List Answer) :
    Follows s0 (PrefixEnds s0 dir) (runPrompt rest (afterRegAddr q))
      (if q.ac = AckClass.nack.code then .ended (some .regAddrRejected) rest (s0.procView q)
      else if q.ac = AckClass.ack.code then .ended none rest (s0.procView q)
      else .ended (some .hwFault) rest (s0.procView q)) := by
  unfold afterRegAddr
  by_cases hnack : q.ac = AckClass.nack.code
  · have hack : q.ac ≠ AckClass.ack.code := by rw [hnack]; decide
    rw [if_pos hnack, if_neg hack, if_pos hnack]
    exact Arrives.here (hq.decideResult .regAddrRejected)
  · rw [if_neg hnack, if_neg hnack]
    by_cases hack : q.ac = AckClass.ack.code
    · rw [if_pos hack, if_pos hack]
      exact ⟨q, rfl, rfl, hq⟩
    · rw [if_neg hack, if_neg hack]
      exact Arrives.here (hq.decideResult .hwFault)

/-- PREFIX() begins where `ENTER` has loaded the counter. -/
theorem follows_prefixProc (answers : List Answer) {u : State} (hu : Due dir .start1 (State.loaded u))
    (hmax : 0 < u.cfg.maxRestarts.toNat) :
    Follows u (PrefixEnds u dir) (runPrompt answers u.loaded) (prefixProc answers u) := by
  refine Follows.andThen (follows_prefixLoop (s0 := u) _ answers hu rfl hmax) ?_
  rintro (_ | c) rest p ⟨m, ht, rfl, hm⟩
  · rw [ht, callPut_eq]
    refine follows_call hm.busy (hm.turn.trans (phaseTurn_regAddr hm.ph))
      (fun ans => busCompletes_regAddr ans hm.ph rfl)
      rfl (fun _ _ => rfl) (fun ans rest => ?_) rest
    exact follows_afterRegAddr (due_putDone hm ans m.dReg) rest
  · exact ⟨m, ht, rfl, hm⟩

/-! ### The data phases -/

/-- What the table does with the answer to a data byte, `n` bytes left behind it, and what WRITE does (R122, R128). -/
theorem follows_afterDataTx {n : Nat} {q : State} (hq : Due dir .dataTx q) (hn : q.idx.toNat + (n + 1) = q.dLen.toNat)
    (rest : List Answer)
    (ih : ∀ m, 0 < n → Due dir .dataTx m → m.idx.toNat + n = m.dLen.toNat →
      Follows s0 (Arrives s0 (Decided dir)) (runPrompt rest m) (writeLoop n rest (s0.procView m))) :
    Follows s0 (Arrives s0 (Decided dir)) (runPrompt rest (afterDataTx q))
      (if q.ac = AckClass.nack.code then .ended .dataRejected rest (s0.procView q)
      else if q.ac = AckClass.ack.code then writeLoop n rest (s0.procView { q with idx := q.idx + 1 })
      else .ended .hwFault rest (s0.procView q)) := by
  unfold afterDataTx
  by_cases hnack : q.ac = AckClass.nack.code
  · have hack : q.ac ≠ AckClass.ack.code := by rw [hnack]; decide
    rw [if_pos hnack, if_neg hack, if_pos hnack]
    exact Arrives.here (hq.decideResult .dataRejected)
  · rw [if_neg hnack, if_neg hnack]
    by_cases hack : q.ac = AckClass.ack.code
    · rw [if_pos hack, if_pos hack]
      cases n with
      | zero =>
        rw [if_neg (by omega)]
        exact Arrives.here ((hq.move .dataTx q.retry (q.idx + 1)).decideResult .ok)
      | succ n =>
        have hmore : q.idx.toNat + 1 < q.dLen.toNat := by omega
        rw [if_pos hmore]
        refine ih { q with idx := q.idx + 1 } (by omega) ⟨hq.busy, hq.leOp, hq.ph, hq.dir, hq.len⟩ ?_
        rw [idx_add_one hmore, ← hn]
        omega
    · rw [if_neg hack, if_neg hack]
      exact Arrives.here (hq.decideResult .hwFault)

theorem follows_writeLoop (n : Nat) (answers : List Answer) {m : State} (hpos : 0 < n) (hm : Due dir .dataTx m)
    (hn : m.idx.toNat + n = m.dLen.toNat) :
    Follows s0 (Arrives s0 (Decided dir)) (runPrompt answers m) (writeLoop n answers (s0.procView m)) := by
  induction n generalizing answers m with
  | zero => omega
  | succ n ih =>
    rw [writeLoop, callPut_eq]
    refine follows_call hm.busy (hm.turn.trans (phaseTurn_dataTx hm.ph)) (fun ans => busCompletes_dataTx ans hm.ph rfl)
      rfl (fun _ _ => rfl) (fun ans rest => ?_) answers
    exact follows_afterDataTx (due_putDone hm ans _) (by simpa [putDone, putIssue] using hn) rest
      fun m' hpos' hm' hn' => ih rest hpos' hm' hn'

/-- What the table does with a byte received, `n` bytes left behind it, and what READ does (R123, R130). -/
theorem follows_afterDataRx {n : Nat} {q : State} (hq : Due dir .dataRx q) (hn : q.idx.toNat + (n + 1) = q.dLen.toNat)
    (rest : List Answer)
    (ih : ∀ m, 0 < n → Due dir .dataRx m → m.idx.toNat + n = m.dLen.toNat →
      Follows s0 (Arrives s0 (Decided dir)) (runPrompt rest m) (readLoop n rest (s0.procView m))) :
    Follows s0 (Arrives s0 (Decided dir)) (runPrompt rest (afterDataRx q))
      (readLoop n rest (s0.procView { storeData q with idx := q.idx + 1 })) := by
  have hstored : Due dir .dataRx { storeData q with idx := q.idx + 1 } :=
    ⟨hq.busy, hq.leOp, hq.ph, hq.dir, hq.len⟩
  unfold afterDataRx
  cases n with
  | zero =>
    rw [if_neg (by omega)]
    exact Arrives.here (hstored.decideResult .ok)
  | succ n =>
    have hmore : q.idx.toNat + 1 < q.dLen.toNat := by omega
    rw [if_pos hmore]
    refine ih _ (by omega) hstored ?_
    rw [idx_add_one hmore, show (storeData q).dLen = q.dLen from rfl, ← hn]
    omega

/-- The last byte is the one that READ and the table answer with NACK. -/
theorem moreToCome_eq {n : Nat} {m : State} (hn : m.idx.toNat + (n + 1) = m.dLen.toNat) :
    moreToCome m = (n != 0) := by
  cases n with
  | zero => simp [moreToCome]; omega
  | succ n => simp [moreToCome]; omega

theorem follows_readLoop (n : Nat) (answers : List Answer) {m : State} (hpos : 0 < n) (hm : Due dir .dataRx m)
    (hn : m.idx.toNat + n = m.dLen.toNat) :
    Follows s0 (Arrives s0 (Decided dir)) (runPrompt answers m) (readLoop n answers (s0.procView m)) := by
  induction n generalizing answers m with
  | zero => omega
  | succ n ih =>
    rw [readLoop, callGet_eq, ← moreToCome_eq hn]
    refine follows_call hm.busy (hm.turn.trans (phaseTurn_dataRx hm.ph)) (fun ans => busCompletes_dataRx ans hm.ph rfl)
      rfl (fun _ _ => rfl) (fun ans rest => ?_) answers
    exact follows_afterDataRx (due_getDone hm ans _) (by simpa [getDone, getIssue] using hn) rest
      fun m' hpos' hm' hn' => ih rest hpos' hm' hn'

/-! ### The whole of WRITE and READ -/

/-- The procedure ended with the code `c` where the machine has returned it. -/
def Returns (s0 t : State) (c : ResultCode) (_ : List Answer) (p : State) : Prop :=
  ∃ q : State, t = q.returnCode (c.code q.cfg) ∧ p = (s0.procView q).returnCode (c.code q.cfg)

theorem follows_stopAndReturn {c : ResultCode} {m : State} (hm : Decided dir c m) (answers : List Answer) :
    Follows s0 (Returns s0) (runPrompt answers m) (stopAndReturn c answers (s0.procView m)) := by
  obtain ⟨hdue, hrcp⟩ := hm
  rw [stopAndReturn, callStop_eq]
  refine follows_call (after := fun q => q.returnCode m.rcp) hdue.busy (hdue.turn.trans (phaseTurn_stopping hdue.ph))
    (fun ans => busCompletes_stopping ans hdue.ph rfl) rfl (fun _ _ => rfl) (fun ans rest => ?_) answers
  rw [runPrompt_idle rest rfl, hrcp]
  exact ⟨_, rfl, rfl⟩

theorem follows_arrives_stop {t : State} {r : ProcResult ResultCode} (h : Follows s0 (Arrives s0 (Decided dir)) t r) :
    Follows s0 (Returns s0) t (r.andThen stopAndReturn) :=
  h.andThen fun c rest p ⟨m, ht, hp, hm⟩ => by
    rw [ht, hp]
    exact follows_stopAndReturn hm rest

theorem follows_writeProc (answers : List Answer) {u : State} (hu : Due false .start1 u.loaded)
    (hmax : 0 < u.cfg.maxRestarts.toNat) :
    Follows u (Returns u) (runPrompt answers u.loaded) (writeProc answers u) := by
  have hlen : u.dLen ≠ 0 := fun h => by simpa [State.loaded, h] using hu.len
  rw [writeProc, if_neg hlen]
  refine (follows_prefixProc answers hu hmax).andThen ?_
  rintro (_ | c) rest p h
  · obtain ⟨q, ht, rfl, hq⟩ := h
    rw [ht, if_neg (by simp [hq.dir])]
    exact follows_arrives_stop (follows_writeLoop _ rest hq.len (hq.move .dataTx q.retry 0) (by simp [State.procView]))
  · obtain ⟨m, ht, rfl, hm⟩ := h
    rw [ht]
    exact follows_stopAndReturn hm rest

/-- The second half of READ (R123, R129). -/
theorem follows_readSecondHalf (answers : List Answer) {m : State} (hm : Due dir .start2 m) :
    Follows s0 (Returns s0) (runPrompt answers m)
      ((callStart answers (s0.procView m)).andThen fun _ rest s =>
        if s.sr then stopAndReturn .readAddr rest s
        else
          (callPut (addrByte s.dSla true) rest s).andThen fun _ rest s =>
            if s.ac = AckClass.ack.code then
              (readLoop s.dLen.toNat rest { s with idx := 0 }).andThen stopAndReturn
            else stopAndReturn .readAddr rest s) := by
  rw [callStart_eq]
  refine follows_call hm.busy (hm.turn.trans (phaseTurn_start2 hm.ph)) (fun ans => busCompletes_start2 ans hm.ph rfl)
    rfl (fun _ _ => rfl) (fun ans rest => ?_) answers
  have hq := due_startDone hm ans
  generalize startDone ans (startIssue m) = q at hq ⊢
  unfold afterStart2
  by_cases hsr : q.sr = true
  · rw [if_neg (by simp [hsr]), if_pos (by exact hsr)]
    exact follows_stopAndReturn (hq.decideResult .readAddr) rest
  · rw [if_pos (by simpa using hsr), if_neg (by exact hsr), callPut_eq]
    have hm' := hq.move .addrR q.retry q.idx
    refine follows_call hm'.busy (hm'.turn.trans (phaseTurn_addrR rfl)) (fun ans => busCompletes_addrR ans rfl rfl)
      rfl (fun _ _ => rfl) (fun ans' rest' => ?_) rest
    have hr := due_putDone hm' ans' (addrByte q.dSla true)
    revert hr
    generalize putDone _ _ _ = r
    intro hr
    unfold afterAddrR
    by_cases hack : r.ac = AckClass.ack.code
    · rw [if_pos hack, if_pos (by exact hack)]
      exact follows_arrives_stop
        (follows_readLoop _ rest' hr.len (hr.move .dataRx r.retry 0) (by simp [State.procView]))
    · rw [if_neg hack, if_neg (by exact hack)]
      exact follows_stopAndReturn (hr.decideResult .readAddr) rest'

theorem follows_readProc (answers : List Answer) {u : State} (hu : Due true .start1 u.loaded)
    (hmax : 0 < u.cfg.maxRestarts.toNat) :
    Follows u (Returns u) (runPrompt answers u.loaded) (readProc answers u) := by
  have hlen : u.dLen ≠ 0 := fun h => by simpa [State.loaded, h] using hu.len
  rw [readProc, if_neg hlen]
  refine (follows_prefixProc answers hu hmax).andThen ?_
  rintro (_ | c) rest p h
  · obtain ⟨q, ht, rfl, hq⟩ := h
    rw [ht, if_pos hq.dir]
    exact follows_readSecondHalf rest (hq.move .start2 q.retry q.idx)
  · obtain ⟨m, ht, rfl, hm⟩ := h
    rw [ht]
    exact follows_stopAndReturn hm rest

end

/-! ### `exec` on a prompt bus -/

/-- `exec` on a prompt bus: acceptance, one turn, and the run over the answers. -/
theorem exec_promptWorld {s : State} {i : Instr} (hs : s.ready = true) (hi : ∀ d, i ≠ .init d)
    (answers : List Answer) :
    ∃ w, exec i (s.setWorld (promptWorld answers)) =
      .next ((runPrompt answers (controllerTurn ((s.setWorld []).accept i))).setWorld w) := by
  obtain ⟨hb, he, -⟩ := (State.ready_iff s).mp hs
  obtain ⟨w, hw⟩ := runController_promptTail answers (promptTail answers) (controllerTurn ((s.setWorld []).accept i))
  refine ⟨w, (exec_of_accepted (s := s.setWorld (promptWorld answers)) hb he hi).trans (congrArg _ ?_)⟩
  rw [← hw]
  exact runController_tick_setWorld (s := (s.setWorld []).accept i) rfl (promptWorld answers) (promptTail answers)

theorem controllerTurn_enter {s : State} (hb : s.busy = true) (hl : s.leOp = .none) (hp : s.ph = .enter) :
    controllerTurn s = if s.dLen = 0 then s.returnCode (ResultCode.ok.code s.cfg) else s.loaded := by
  rw [controllerTurn_due hb hl, phaseTurn_enter hp]
  rfl

/-- A composite accepted by a ready block ends, on a prompt bus, as its procedure `proc` does. -/
theorem exec_follows {s : State} {i : Instr} {proc : List Answer → State → ProcResult ResultCode} {dir : Bool}
    (hs : s.ready = true) (hi : ∀ d, i ≠ .init d) (hp : firstPhase i = .enter) (hdir : (descriptorOf i).dir = dir)
    (hcfg : s.cfg.legal = true)
    (hzero : ∀ answers (u : State), u.dLen = 0 → proc answers u =
      .ended .ok answers (u.returnCode (ResultCode.ok.code u.cfg)))
    (hproc : ∀ answers (u : State), Due dir .start1 u.loaded → 0 < u.cfg.maxRestarts.toNat →
      Follows u (Returns u) (runPrompt answers u.loaded) (proc answers u)) (answers : List Answer) :
    ∃ t w, exec i (s.setWorld (promptWorld answers)) = .next (t.setWorld w) ∧
      Follows ((s.setWorld []).accept i) (Returns ((s.setWorld []).accept i)) t
        (proc answers ((s.setWorld []).accept i)) := by
  obtain ⟨-, -, hl⟩ := (State.ready_iff s).mp hs
  obtain ⟨w, hw⟩ := exec_promptWorld hs hi answers
  rw [controllerTurn_enter rfl (by exact hl) (by exact hp)] at hw
  by_cases hlen : (descriptorOf i).len = 0
  · rw [if_pos (by exact hlen), runPrompt_idle answers rfl] at hw
    refine ⟨_, w, hw, ?_⟩
    rw [hzero answers _ hlen]
    exact ⟨(s.setWorld []).accept i, rfl, rfl⟩
  · rw [if_neg (by exact hlen)] at hw
    exact ⟨_, w, hw, hproc answers _ ⟨rfl, hl, rfl, hdir, byte_pos_of_ne_zero hlen⟩ (Config.maxRestarts_pos hcfg)⟩

theorem exec_follows_write {s : State} (hs : s.ready = true) (hcfg : s.cfg.legal = true) (sla : SlaveAddr)
    (len reg : Byte) (answers : List Answer) :
    ∃ t w, exec (.write sla len reg) (s.setWorld (promptWorld answers)) = .next (t.setWorld w) ∧
      Follows ((s.setWorld []).accept (.write sla len reg)) (Returns ((s.setWorld []).accept (.write sla len reg))) t
        (writeProc answers ((s.setWorld []).accept (.write sla len reg))) :=
  exec_follows hs (by simp) rfl (by simp [descriptorOf, Instr.opcode]) hcfg (fun _ _ h => if_pos h)
    (fun answers _ hu hmax => follows_writeProc answers hu hmax) answers

theorem exec_follows_read {s : State} (hs : s.ready = true) (hcfg : s.cfg.legal = true) (sla : SlaveAddr)
    (len reg : Byte) (answers : List Answer) :
    ∃ t w, exec (.read sla len reg) (s.setWorld (promptWorld answers)) = .next (t.setWorld w) ∧
      Follows ((s.setWorld []).accept (.read sla len reg)) (Returns ((s.setWorld []).accept (.read sla len reg))) t
        (readProc answers ((s.setWorld []).accept (.read sla len reg))) :=
  exec_follows hs (by simp) rfl (by simp [descriptorOf, Instr.opcode]) hcfg (fun _ _ h => if_pos h)
    (fun answers _ hu hmax => follows_readProc answers hu hmax) answers

theorem agreesWith_of_follows {s0 t : State} {r : ProcResult ResultCode} (h : Follows s0 (Returns s0) t r)
    (w : List Stimulus) : agreesWith (t.setWorld w) r = true := by
  cases r with
  | hung p =>
    obtain rfl : p = s0.procView t := h
    simp [agreesWith, sameOutcome, State.setWorld, State.procView]
  | ended c rest p =>
    obtain ⟨q, rfl, rfl⟩ := h
    simp [agreesWith, sameOutcome, State.setWorld, State.procView]

/-- Settles O45: the machine follows each procedure to its end or to where it hangs. -/
theorem proceduresAgreeWithTheTable : Obligations.ProceduresAgreeWithTheTable := by
  intro s sla len reg answers hs hcfg
  obtain ⟨hb, he, -⟩ := (State.ready_iff s).mp hs
  have haccept (i : Instr) (hi : ∀ d, i ≠ .init d) : exec i { s with world := [] } = .next ((s.setWorld []).accept i) :=
    exec_of_accepted (s := s.setWorld []) hb he hi
  obtain ⟨t, w, ht, hfollows⟩ := exec_follows_write hs hcfg sla len reg answers
  obtain ⟨t', w', ht', hfollows'⟩ := exec_follows_read hs hcfg sla len reg answers
  exact ⟨⟨_, _, ht, haccept _ (by simp), agreesWith_of_follows hfollows w⟩,
    ⟨_, _, ht', haccept _ (by simp), agreesWith_of_follows hfollows' w'⟩⟩

end Sys2Proof.Machine
end

section
/-! PROOFS. Whole commands on a prompt bus, read off their procedures: a WRITE and a READ that succeed, and the attempts
of PREFIX() that fail until the counter is used up. -/

namespace Sys2Proof.Machine

/-! ### The machine where its procedure has ended -/

/-- `t` is `p` but for the pending code and the world. -/
def State.SameEnd (p t : State) : Prop := ∃ r w, t = { p with rcp := r, world := w }

theorem sameEnd_of_returns {s0 t p : State} {c : ResultCode} {rest : List Answer} (h : Returns s0 t c rest p)
    (w : List Stimulus) : p.SameEnd (t.setWorld w) := by
  obtain ⟨q, rfl, rfl⟩ := h
  exact ⟨q.rcp, w, rfl⟩

theorem exec_write_of_ended {s : State} (hs : s.ready = true) (hcfg : s.cfg.legal = true) {sla : SlaveAddr}
    {len reg : Byte} {answers rest : List Answer} {c : ResultCode} {p : State}
    (h : writeProc answers ((s.setWorld []).accept (.write sla len reg)) = .ended c rest p) :
    ∃ t, exec (.write sla len reg) (s.setWorld (promptWorld answers)) = .next t ∧ p.SameEnd t := by
  obtain ⟨t, w, ht, hf⟩ := exec_follows_write hs hcfg sla len reg answers
  rw [h] at hf
  exact ⟨_, ht, sameEnd_of_returns (rest := rest) hf w⟩

theorem exec_read_of_ended {s : State} (hs : s.ready = true) (hcfg : s.cfg.legal = true) {sla : SlaveAddr}
    {len reg : Byte} {answers rest : List Answer} {c : ResultCode} {p : State}
    (h : readProc answers ((s.setWorld []).accept (.read sla len reg)) = .ended c rest p) :
    ∃ t, exec (.read sla len reg) (s.setWorld (promptWorld answers)) = .next t ∧ p.SameEnd t := by
  obtain ⟨t, w, ht, hf⟩ := exec_follows_read hs hcfg sla len reg answers
  rw [h] at hf
  exact ⟨_, ht, sameEnd_of_returns (rest := rest) hf w⟩

/-! ### One operation, answered, as one update -/

section
variable {s : State} {ans : Answer}

theorem startDone_accepted (h : startOk ans.status = true) : startDone ans (startIssue s) = { s with
    leOp := .none, done := true, hwstat := ans.status, sr := false, held := true
    trace := s.trace ++ [.start (startKind s) ans.status] } := by
  simp only [startDone, h]
  rfl

theorem startDone_rejected (h : startOk ans.status = false) : startDone ans (startIssue s) = { s with
    leOp := .none, done := true, hwstat := ans.status, sr := true, held := false
    trace := s.trace ++ [.start (startKind s) ans.status] } := by
  simp only [startDone, h]
  rfl

theorem putDone_ack (b : Byte) (h : ans.status = .txAck) : putDone b ans (putIssue b s) = { s with
    leOp := .none, done := true, hwstat := .txAck, shift := ans.byte, ac := AckClass.ack.code
    trace := s.trace ++ [.tx b .txAck] } := by
  simp [putDone, putIssue, State.issue, State.complete, State.loadShift, State.emit, ackClass, h]

theorem putDone_nack (b : Byte) (h : ans.status = .txNack) : putDone b ans (putIssue b s) = { s with
    leOp := .none, done := true, hwstat := .txNack, shift := ans.byte, ac := AckClass.nack.code
    trace := s.trace ++ [.tx b .txNack] } := by
  simp [putDone, putIssue, State.issue, State.complete, State.loadShift, State.emit, ackClass, h]

theorem getDone_received (a : Bool) : getDone a ans (getIssue a s) = { s with
    leOp := .none, done := true, hwstat := ans.status, shift := ans.byte, data := ans.byte, ackPol := a
    trace := s.trace ++ [.rx ans.byte a] } := by
  simp [getDone, getIssue, State.issue, State.complete, State.loadShift, State.emit]

end

theorem startKind_of_held {s : State} (h : s.held = true) : startKind s = .repeated := if_pos h

/-- The Stop and the return (R127, R176). -/
theorem stopAndReturn_answered (c : ResultCode) (st : Answer) (rest : List Answer) (s : State) :
    stopAndReturn c (st :: rest) s = .ended c rest { s with
      rc := c.code s.cfg, ph := .idle, busy := false, held := false
      leOp := .none, done := true, hwstat := st.status
      trace := s.trace ++ [.stop] } := rfl

/-! ### Success -/

theorem AckClass.ack_ne_nack : AckClass.ack.code ≠ AckClass.nack.code := by decide

/-- PREFIX() on a bus that accepts the Start and both bytes (R125). -/
theorem prefixProc_accepted {a0 w1 w2 : Answer} (h0 : startOk a0.status = true) (h1 : w1.status = .txAck)
    (h2 : w2.status = .txAck) (rest : List Answer) {s : State} (hmax : 0 < s.cfg.maxRestarts.toNat) :
    prefixProc (a0 :: w1 :: w2 :: rest) s = .ended none rest { s with
      retry := s.cfg.maxRestarts, leOp := .none, done := true, hwstat := .txAck, shift := w2.byte, sr := false
      ac := AckClass.ack.code, held := true
      trace := s.trace ++ [.start (startKind s) a0.status,
        .tx (addrByte s.dSla false) .txAck, .tx s.dReg .txAck] } := by
  obtain ⟨n, hn⟩ : ∃ n, s.cfg.maxRestarts.toNat = n + 1 := ⟨_, (Nat.succ_pred_eq_of_pos hmax).symm⟩
  simp only [prefixProc, hn, prefixLoop, callStart, callPut, ProcResult.andThen, startDone_accepted h0,
    putDone_ack _ h1, putDone_ack _ h2, if_neg AckClass.ack_ne_nack, if_pos, if_neg Bool.false_ne_true,
    List.append_assoc]
  rfl

theorem byte_add_one {i : Byte} (h : i.toNat + 1 < 256) : (i + 1).toNat = i.toNat + 1 := by
  rw [BitVec.toNat_add]
  simp
  omega

/-- Step 5 of WRITE where every byte is acknowledged (R128). -/
theorem writeLoop_acknowledged (acks rest : List Answer) {s : State} (h : ∀ a ∈ acks, a.status = .txAck)
    (hidx : s.idx.toNat + acks.length < 256) (hac : s.ac = AckClass.ack.code) (hl : s.leOp = .none) :
    ∃ d hs b, writeLoop acks.length (acks ++ rest) s = .ended .ok rest { s with
      done := d, hwstat := hs, shift := b, idx := s.idx + BitVec.ofNat 8 acks.length
      trace := s.trace ++ (List.range acks.length).map fun j => .tx (s.buf.read (s.idx.toNat + j)) .txAck } := by
  induction acks generalizing s with
  | nil => exact ⟨s.done, s.hwstat, s.shift, by simp [writeLoop]⟩
  | cons a acks ih =>
    have hhead : a.status = .txAck := h a (by simp)
    have htail : ∀ x ∈ acks, x.status = .txAck := fun x hx => h x (by simp [hx])
    simp only [List.length_cons] at hidx
    have hnext : (s.idx + 1).toNat = s.idx.toNat + 1 := byte_add_one (by omega)
    obtain ⟨d, hs, b, heq⟩ := ih (s := { s with
      leOp := .none, done := true, hwstat := .txAck, shift := a.byte, ac := AckClass.ack.code, idx := s.idx + 1
      trace := s.trace ++ [.tx (s.buf.read s.idx.toNat) .txAck] }) htail (by rw [hnext]; omega) rfl rfl
    refine ⟨d, hs, b, ?_⟩
    simp only [List.length_cons, List.cons_append, writeLoop, callPut, ProcResult.andThen, putDone_ack _ hhead,
      if_neg AckClass.ack_ne_nack, if_pos]
    rw [heq]
    have hi : s.idx + 1 + BitVec.ofNat 8 acks.length = s.idx + BitVec.ofNat 8 (acks.length + 1) := by
      rw [BitVec.add_assoc, BitVec.ofNat_add, BitVec.add_comm 1]
      rfl
    have ht : (List.range (acks.length + 1)).map (fun j => Event.tx (s.buf.read (s.idx.toNat + j)) .txAck) =
        .tx (s.buf.read s.idx.toNat) .txAck ::
          (List.range acks.length).map fun j => .tx (s.buf.read (s.idx.toNat + 1 + j)) .txAck := by
      simp [List.range_succ_eq_map, Nat.add_assoc, Nat.add_comm 1]
    simp only [hnext, hi, ht, hl, hac, List.append_assoc, List.singleton_append]

/-- A bus that accepts everything: WRITE from acceptance to return (R122). -/
theorem writeProc_completed {a0 w1 w2 st : Answer} {data : List Answer} (h0 : startOk a0.status = true)
    (h1 : w1.status = .txAck) (h2 : w2.status = .txAck) (hdata : ∀ a ∈ data, a.status = .txAck) {s : State}
    (hlen : s.dLen ≠ 0) (hlength : data.length = s.dLen.toNat) (hmax : 0 < s.cfg.maxRestarts.toNat) :
    ∃ hs b, writeProc (a0 :: w1 :: w2 :: (data ++ [st])) s = .ended .ok [] { s with
      rc := ResultCode.ok.code s.cfg, ph := .idle, busy := false, retry := s.cfg.maxRestarts, idx := s.dLen
      sr := false, ac := AckClass.ack.code, held := false, leOp := .none, done := true, hwstat := hs, shift := b
      trace := s.trace ++ [.start (startKind s) a0.status, .tx (addrByte s.dSla false) .txAck, .tx s.dReg .txAck] ++
        ((List.range s.dLen.toNat).map fun j => .tx (s.buf.read j) .txAck) ++ [.stop] } := by
  have hlt := s.dLen.isLt
  rw [writeProc, if_neg hlen, prefixProc_accepted h0 h1 h2 _ hmax]
  obtain ⟨d, hs, b, hloop⟩ := writeLoop_acknowledged data [st] hdata (s := { s with
      retry := s.cfg.maxRestarts, leOp := .none, done := true, hwstat := .txAck, shift := w2.byte, sr := false
      ac := AckClass.ack.code, held := true, idx := 0
      trace := s.trace ++ [.start (startKind s) a0.status,
        .tx (addrByte s.dSla false) .txAck, .tx s.dReg .txAck] }) (by simp; omega) rfl rfl
  refine ⟨st.status, b, ?_⟩
  rw [hlength] at hloop
  simp only [ProcResult.andThen, hloop, stopAndReturn_answered]
  simp

/-- Step 6 of READ (R130, R43): byte after byte into the buffer, all but the last answered ACK. -/
theorem readLoop_received (bytes rest : List Answer) {s : State} (hidx : s.idx.toNat + bytes.length < 256)
    (hl : s.leOp = .none) :
    ∃ d hs b x a, readLoop bytes.length (bytes ++ rest) s = .ended .ok rest { s with
      done := d, hwstat := hs, shift := b, data := x, ackPol := a, idx := s.idx + BitVec.ofNat 8 bytes.length
      buf := Memory.fill s.idx.toNat (bytes.map Answer.byte) s.buf
      trace := s.trace ++ bytes.mapIdx fun j a => .rx a.byte (decide (j + 1 < bytes.length)) } := by
  induction bytes generalizing s with
  | nil => exact ⟨s.done, s.hwstat, s.shift, s.data, s.ackPol, by simp [readLoop, Memory.fill]⟩
  | cons ans bytes ih =>
    simp only [List.length_cons] at hidx
    have hnext : (s.idx + 1).toNat = s.idx.toNat + 1 := byte_add_one (by omega)
    obtain ⟨d, hs, b, x, a, heq⟩ := ih (s := { s with
      leOp := .none, done := true, hwstat := ans.status, shift := ans.byte, data := ans.byte
      ackPol := bytes.length != 0, buf := s.buf.write s.idx.toNat ans.byte, idx := s.idx + 1
      trace := s.trace ++ [.rx ans.byte (bytes.length != 0)] }) (by rw [hnext]; omega) rfl
    refine ⟨d, hs, b, x, a, ?_⟩
    simp only [List.length_cons, List.cons_append, readLoop, callGet, ProcResult.andThen, getDone_received]
    rw [heq]
    have hi : s.idx + 1 + BitVec.ofNat 8 bytes.length = s.idx + BitVec.ofNat 8 (bytes.length + 1) := by
      rw [BitVec.add_assoc, BitVec.ofNat_add, BitVec.add_comm 1]
      rfl
    have hfill : Memory.fill s.idx.toNat ((ans :: bytes).map Answer.byte) s.buf =
        Memory.fill (s.idx.toNat + 1) (bytes.map Answer.byte) (s.buf.write s.idx.toNat ans.byte) := if_pos s.idx.isLt
    have ht : (ans :: bytes).mapIdx (fun j a => Event.rx a.byte (decide (j + 1 < bytes.length + 1))) =
        .rx ans.byte (bytes.length != 0) :: bytes.mapIdx fun j a => .rx a.byte (decide (j + 1 < bytes.length)) := by
      have hmore : decide (0 + 1 < bytes.length + 1) = (bytes.length != 0) := by cases bytes <;> simp
      rw [List.mapIdx_cons, hmore]
      simp
    simp only [hnext, hi, ht, hl, hfill, List.append_assoc, List.singleton_append]

/-- A bus that accepts everything: READ from acceptance to return (R123). -/
theorem readProc_completed {a0 w1 w2 a1 r1 st : Answer} {bytes : List Answer} (h0 : startOk a0.status = true)
    (h1 : w1.status = .txAck) (h2 : w2.status = .txAck) (h3 : startOk a1.status = true) (h4 : r1.status = .txAck)
    {s : State} (hlen : s.dLen ≠ 0) (hlength : bytes.length = s.dLen.toNat) (hmax : 0 < s.cfg.maxRestarts.toNat) :
    ∃ hs b x a, readProc (a0 :: w1 :: w2 :: a1 :: r1 :: (bytes ++ [st])) s = .ended .ok [] { s with
      rc := ResultCode.ok.code s.cfg, ph := .idle, busy := false, retry := s.cfg.maxRestarts, idx := s.dLen
      sr := false, ac := AckClass.ack.code, held := false, leOp := .none, done := true, hwstat := hs, shift := b
      data := x, ackPol := a, buf := Memory.fill 0 (bytes.map Answer.byte) s.buf
      trace := s.trace ++ [.start (startKind s) a0.status, .tx (addrByte s.dSla false) .txAck, .tx s.dReg .txAck,
          .start .repeated a1.status, .tx (addrByte s.dSla true) .txAck] ++
        bytes.mapIdx (fun j a => .rx a.byte (decide (j + 1 < s.dLen.toNat))) ++ [.stop] } := by
  have hlt := s.dLen.isLt
  rw [readProc, if_neg hlen, prefixProc_accepted h0 h1 h2 _ hmax]
  obtain ⟨d, hs, b, x, a, hloop⟩ := readLoop_received bytes [st] (s := { s with
      retry := s.cfg.maxRestarts, leOp := .none, done := true, hwstat := .txAck, shift := r1.byte, sr := false
      ac := AckClass.ack.code, held := true, idx := 0
      trace := s.trace ++ [.start (startKind s) a0.status,
        .tx (addrByte s.dSla false) .txAck, .tx s.dReg .txAck] ++ [.start .repeated a1.status] ++
        [.tx (addrByte s.dSla true) .txAck] }) (by simp; omega) rfl
  refine ⟨st.status, b, x, a, ?_⟩
  rw [hlength] at hloop
  simp only [ProcResult.andThen, callStart, callPut, startDone_accepted h3, putDone_ack _ h4, if_pos,
    if_neg Bool.false_ne_true, startKind_of_held, hloop, stopAndReturn_answered]
  simp

/-- Settles O36. -/
theorem writeCompletesOnAnAcknowledgingBus : Obligations.WriteCompletesOnAnAcknowledgingBus := by
  intro s sla len reg a0 st acks hs hcfg hlen h0 hacks hack
  obtain ⟨w1, w2, data, rfl⟩ : ∃ w1 w2 data, acks = w1 :: w2 :: data := by
    match acks, hacks with
    | w1 :: w2 :: data, _ => exact ⟨w1, w2, data, rfl⟩
  replace hacks : data.length = len.toNat := by simpa using hacks
  obtain ⟨hw, b, hproc⟩ := writeProc_completed (st := st) h0 (hack w1 (by simp)) (hack w2 (by simp))
    (fun a ha => hack a (by simp [ha])) (s := (s.setWorld []).accept (.write sla len reg)) hlen hacks
    (Config.maxRestarts_pos hcfg)
  obtain ⟨t, ht, r, w, rfl⟩ := exec_write_of_ended hs hcfg hproc
  exact ⟨_, ht, rfl, rfl, ResultCode.code_of_legal hcfg .ok, rfl, rfl, rfl, rfl, rfl, rfl, rfl, rfl⟩

/-- Settles O37. -/
theorem readCompletesOnAnAcknowledgingBus : Obligations.ReadCompletesOnAnAcknowledgingBus := by
  intro s sla len reg a0 w1 w2 a1 r1 st bytes hs hcfg hbuf hlen h0 h1 h2 h3 h4 hbytes
  have hlt := len.isLt
  obtain ⟨hw, b, x, a, hproc⟩ := readProc_completed (st := st) h0 h1 h2 h3 h4
    (s := (s.setWorld []).accept (.read sla len reg)) hlen hbytes (Config.maxRestarts_pos hcfg)
  obtain ⟨t, ht, r, w, rfl⟩ := exec_read_of_ended hs hcfg hproc
  refine ⟨_, ht, rfl, rfl, ResultCode.code_of_legal hcfg .ok, rfl, rfl, rfl, rfl, rfl, fun j hj => ?_, fun j hj => ?_,
    rfl⟩
  · refine (Memory.read_fill _ 0 j hbuf).trans ?_
    rw [dif_pos ⟨Nat.zero_le j, by omega, by simpa using hj⟩]
    simp
  · refine (Memory.read_fill _ 0 j hbuf).trans (dif_neg ?_)
    simp
    omega

/-! ### Exhaustion -/

/-- An attempt of PREFIX() that may fail: a Start alone, or a Start and SLA+W. -/
abbrev Attempt := Answer ⊕ (Answer × Answer)

/-- The answers an attempt takes. -/
def attemptAnswers : Attempt → List Answer
  | .inl a => [a]
  | .inr q => [q.1, q.2]

/-- A failed Start, or an accepted one with a rejected address (R125). -/
def AttemptFails : Attempt → Prop
  | .inl a => startOk a.status = false
  | .inr q => startOk q.1.status = true ∧ q.2.status = .txNack

def failureCode : Attempt → ResultCode
  | .inl _ => .startFailed
  | .inr _ => .addrFailed

/-- What a failed attempt puts on the bus, where `HELD` is `held`. -/
def attemptEvents (held : Bool) (sla : SlaveAddr) : Attempt → List Event
  | .inl a => [.start (if held = true then .repeated else .fresh) a.status]
  | .inr q => [.start (if held = true then .repeated else .fresh) q.1.status, .tx (addrByte sla false) .txNack]

/-- A bus is held after a Start that was accepted (R81). -/
def attemptHolds : Attempt → Bool
  | .inl _ => false
  | .inr _ => true

/-- What attempts that fail one after the other put on the bus. -/
def attemptsEvents (sla : SlaveAddr) : Bool → List Attempt → List Event
  | _, [] => []
  | held, x :: xs => attemptEvents held sla x ++ attemptsEvents sla (attemptHolds x) xs

/-- `u` differs from `s` in what a failed attempt writes: counter, trace, `HELD`, `SR`, `AC` and the line engine. -/
structure State.AfterFailures (s : State) (xs : List Attempt) (u : State) : Prop where
  trace : u.trace = s.trace ++ attemptsEvents s.dSla s.held xs
  buf : u.buf = s.buf
  data : u.data = s.data
  idx : u.idx = s.idx
  cfg : u.cfg = s.cfg

/-- One failed attempt of the loop (R125). -/
theorem prefixLoop_failed {x : Attempt} (hx : AttemptFails x) (n : Nat) (rest : List Answer) (s : State) :
    ∃ u : State, u.dSla = s.dSla ∧ u.held = attemptHolds x ∧ u.retry = s.retry - 1 ∧ s.AfterFailures [x] u ∧
      prefixLoop (n + 1) (attemptAnswers x ++ rest) s =
        if s.retry - 1 = 0 then .ended (some (failureCode x)) rest u else prefixLoop n rest u := by
  cases x with
  | inl a =>
    have hstart : startOk a.status = false := hx
    refine ⟨{ s with
      leOp := .none, done := true, hwstat := a.status, sr := true, held := false, retry := s.retry - 1
      trace := s.trace ++ [.start (startKind s) a.status] }, rfl, rfl, rfl, ⟨rfl, rfl, rfl, rfl, rfl⟩, ?_⟩
    simp only [attemptAnswers, List.cons_append, List.nil_append, prefixLoop, callStart, ProcResult.andThen,
      startDone_rejected hstart, if_pos, failureCode]
  | inr q =>
    obtain ⟨hstart, hnack⟩ : startOk q.1.status = true ∧ q.2.status = .txNack := hx
    refine ⟨{ s with
      leOp := .none, done := true, hwstat := .txNack, shift := q.2.byte, sr := false, ac := AckClass.nack.code
      held := true, retry := s.retry - 1
      trace := s.trace ++ [.start (startKind s) q.1.status] ++ [.tx (addrByte s.dSla false) .txNack] }, rfl, rfl, rfl,
      ⟨List.append_assoc s.trace _ _, rfl, rfl, rfl, rfl⟩, ?_⟩
    simp only [attemptAnswers, List.cons_append, List.nil_append, prefixLoop, callStart, callPut, ProcResult.andThen,
      startDone_accepted hstart, putDone_nack _ hnack, if_pos, if_neg Bool.false_ne_true, failureCode]

/-- Attempts that fail until the counter is used up: the code is that of the last of them (R125, R136). -/
theorem prefixLoop_exhausted (xs : List Attempt) (last : Attempt) (hfail : ∀ x ∈ xs ++ [last], AttemptFails x)
    (rest : List Answer) {s : State} (hretry : s.retry.toNat = xs.length + 1) :
    ∃ u : State, u.retry = 0 ∧ s.AfterFailures (xs ++ [last]) u ∧
      prefixLoop (xs.length + 1) ((xs ++ [last]).flatMap attemptAnswers ++ rest) s =
        .ended (some (failureCode last)) rest u := by
  induction xs generalizing s with
  | nil =>
    obtain ⟨u, -, -, hr, hu, heq⟩ := prefixLoop_failed (hfail last (by simp)) 0 rest s
    have hlast : s.retry - 1 = 0 := BitVec.eq_of_toNat_eq (by rw [retry_sub_one (by omega), hretry]; rfl)
    rw [if_pos hlast] at heq
    exact ⟨u, hr.trans hlast, hu, by simpa using heq⟩
  | cons x xs ih =>
    simp only [List.length_cons] at hretry
    obtain ⟨v, hsla, hheld, hr, hv, heq⟩ := prefixLoop_failed (hfail x (by simp)) (xs.length + 1)
      ((xs ++ [last]).flatMap attemptAnswers ++ rest) s
    have hv1 : v.retry.toNat = xs.length + 1 := by rw [hr, retry_sub_one (by omega), hretry]; rfl
    obtain ⟨u, hu0, hu, hloop⟩ := ih (fun y hy => hfail y (by simp_all)) hv1
    have hmore : s.retry - 1 ≠ 0 := fun h => by rw [hr, h] at hv1; simp at hv1
    rw [if_neg hmore, hloop] at heq
    refine ⟨u, hu0, ⟨?_, hu.buf.trans hv.buf, hu.data.trans hv.data, hu.idx.trans hv.idx, hu.cfg.trans hv.cfg⟩, ?_⟩
    · rw [hu.trace, hv.trace, hsla, hheld]
      simp [attemptsEvents]
    · simpa using heq

/-- A PREFIX() that gives up ends either composite with the Stop and its code (R125, R127). -/
theorem exec_of_gaveUp {s : State} (hs : s.ready = true) (hcfg : s.cfg.legal = true) {i : Instr} {sla : SlaveAddr}
    {len reg : Byte} (hlen : len ≠ 0) (hi : i = .write sla len reg ∨ i = .read sla len reg) {answers : List Answer}
    {c : ResultCode} {st : Answer} {u : State}
    (h : prefixProc answers ((s.setWorld []).accept i) = .ended (some c) [st] u) :
    ∃ t, exec i (s.setWorld (promptWorld answers)) = .next t ∧ State.SameEnd { u with
      rc := c.code u.cfg, ph := .idle, busy := false, held := false, leOp := .none, done := true, hwstat := st.status
      trace := u.trace ++ [.stop] } t := by
  rcases hi with rfl | rfl
  · refine exec_write_of_ended (rest := []) (c := c) hs hcfg ?_
    rw [writeProc, if_neg (by exact hlen), h]
    rfl
  · refine exec_read_of_ended (rest := []) (c := c) hs hcfg ?_
    rw [readProc, if_neg (by exact hlen), h]
    rfl

theorem prefixProc_exhausted (xs : List Attempt) (last : Attempt) (hfail : ∀ x ∈ xs ++ [last], AttemptFails x)
    (rest : List Answer) {s : State} (hlength : xs.length + 1 = s.cfg.maxRestarts.toNat) :
    ∃ u : State, u.retry = 0 ∧ s.AfterFailures (xs ++ [last]) u ∧
      prefixProc ((xs ++ [last]).flatMap attemptAnswers ++ rest) s = .ended (some (failureCode last)) rest u := by
  obtain ⟨u, hretry, ⟨htrace, hbuf, hdata, hidx, hcfg⟩, hloop⟩ := prefixLoop_exhausted xs last hfail rest
    (s := { s with retry := s.cfg.maxRestarts }) hlength.symm
  refine ⟨u, hretry, ⟨htrace, hbuf, hdata, hidx, hcfg⟩, ?_⟩
  rw [prefixProc, ← hlength, hloop]
  rfl

/-- A composite whose attempts fail until the counter is used up (R125, R136). -/
theorem exec_exhausted {s : State} (hs : s.ready = true) (hcfg : s.cfg.legal = true) {i : Instr} {sla : SlaveAddr}
    {len reg : Byte} (hlen : len ≠ 0) (hi : i = .write sla len reg ∨ i = .read sla len reg) (xs : List Attempt)
    (last : Attempt) (st : Answer) (hlength : xs.length + 1 = s.cfg.maxRestarts.toNat)
    (hfail : ∀ x ∈ xs ++ [last], AttemptFails x) :
    ∃ t, exec i (s.setWorld (promptWorld ((xs ++ [last]).flatMap attemptAnswers ++ [st]))) = .next t ∧
      t.busy = false ∧ t.retry = 0 ∧ t.rc = (failureCode last).code s.cfg ∧ t.held = false ∧ t.buf = s.buf ∧
      t.data = s.data ∧ t.idx = s.idx ∧
      t.trace = s.trace ++ attemptsEvents sla s.held (xs ++ [last]) ++ [.stop] := by
  obtain ⟨u, hretry, ⟨htrace, hbuf, hdata, hidx, hucfg⟩, hprefix⟩ := prefixProc_exhausted xs last hfail [st]
    (s := (s.setWorld []).accept i) hlength
  obtain ⟨t, ht, r, w, rfl⟩ := exec_of_gaveUp hs hcfg hlen hi hprefix
  have hsla : ((s.setWorld []).accept i).dSla = sla := by rcases hi with rfl | rfl <;> rfl
  rw [hsla] at htrace
  exact ⟨_, ht, rfl, hretry, congrArg (failureCode last).code hucfg, rfl, hbuf, hdata, hidx,
    congrArg (· ++ [Event.stop]) htrace⟩

theorem startAttempts_attemptsEvents (sla : SlaveAddr) (held : Bool) (xs : List Attempt) :
    startAttempts (attemptsEvents sla held xs) = xs.length := by
  induction xs generalizing held with
  | nil => rfl
  | cons x xs ih =>
    have hone : startAttempts (attemptEvents held sla x) = 1 := by cases x <;> rfl
    rw [attemptsEvents, startAttempts, List.countP_append]
    exact (congrArg₂ (· + ·) hone (ih _)).trans (Nat.add_comm 1 _)

theorem stopCount_attemptsEvents (sla : SlaveAddr) (held : Bool) (xs : List Attempt) :
    stopCount (attemptsEvents sla held xs) = 0 := by
  induction xs generalizing held with
  | nil => rfl
  | cons x xs ih =>
    have hnone : stopCount (attemptEvents held sla x) = 0 := by cases x <;> rfl
    rw [attemptsEvents, stopCount, List.countP_append]
    exact congrArg₂ (· + ·) hnone (ih _)

/-- Settles O39. -/
theorem mixedExhaustionReturnsTheLastFailuresCode : Obligations.MixedExhaustionReturnsTheLastFailuresCode := by
  intro s i sla len reg fails last st hs hcfg hlen hi hlength hfail
  obtain ⟨t, ht, hbusy, hretry, hrc, -, -, -, -, htrace⟩ := exec_exhausted hs hcfg hlen hi fails last st hlength
    (fun x hx => by have := hfail x hx; cases x <;> exact this)
  refine ⟨t, _, ?_, hbusy, hretry, hrc.trans ?_, htrace, ?_, stopCount_attemptsEvents _ _ _⟩
  · refine Eq.trans (congrArg (fun f => exec i (s.setWorld (promptWorld (List.flatMap f _ ++ [st])))) ?_) ht
    funext x
    cases x <;> rfl
  · cases last <;> exact ResultCode.code_of_legal hcfg _
  · rw [startAttempts_attemptsEvents]
    simpa using hlength

/-- The attempts of a slave that never acknowledges: all but the first with a Repeated Start (R136). -/
theorem attemptsEvents_rejected (sla : SlaveAddr) (ps : List (Answer × Answer)) :
    attemptsEvents sla true (ps.map .inr) =
      ps.flatMap fun q => [.start .repeated q.1.status, .tx (addrByte sla false) .txNack] := by
  induction ps with
  | nil => rfl
  | cons q ps ih => rw [List.map_cons, attemptsEvents, attemptHolds, ih]; rfl

/-- Settles O38. -/
theorem addressExhaustionTakesExactlyMaxRestartsAttempts :
    Obligations.AddressExhaustionTakesExactlyMaxRestartsAttempts := by
  intro s i sla len reg p ps st hs hcfg hlen hi hlength hfail
  obtain ⟨qs, q, hq⟩ : ∃ qs q, p :: ps = qs ++ [q] :=
    ⟨_, _, (List.dropLast_append_getLast (List.cons_ne_nil p ps)).symm⟩
  have hmap : qs.map .inr ++ [.inr q] = ((p :: ps).map .inr : List Attempt) := by rw [hq, List.map_append]; rfl
  have hfails : ∀ x ∈ qs.map .inr ++ [.inr q], AttemptFails x := by
    rw [hmap]
    intro x hx
    obtain ⟨y, hy, rfl⟩ := List.mem_map.mp hx
    exact hfail y hy
  have hcount : (qs.map .inr : List Attempt).length + 1 = s.cfg.maxRestarts.toNat := by
    rw [← hlength, List.length_map]
    simpa using (congrArg List.length hq).symm
  obtain ⟨t, ht, hbusy, hretry, hrc, hheld, hbuf, hdata, hidx, htrace⟩ :=
    exec_exhausted hs hcfg hlen hi _ _ st hcount hfails
  rw [hmap, List.flatMap_map] at ht
  rw [hmap, List.map_cons, attemptsEvents, attemptHolds, attemptsEvents_rejected] at htrace
  exact ⟨t, ht, hbusy, hrc.trans (ResultCode.code_of_legal hcfg .addrFailed), hretry, hheld, hbuf, hdata, hidx,
    htrace.trans (by simp only [List.append_assoc]; rfl)⟩

end Sys2Proof.Machine
end

section
/-! PROOFS. The composites in every world: what holds of them at every step up to the return, whatever the environment
answers and whatever registers the host reads meanwhile (R127, R130, R136). -/

namespace Sys2Proof.Machine

/-! ### What a command can reach -/

/-- What holds at acceptance, and is kept by a host's read, a turn and a completion, holds of all a command reaches. -/
theorem Reaches.keeps {P : State → Prop} {i : Instr} {s t : State} (h : Reaches i s t) (hs : s.ready = true)
    (hi : ∀ d, i ≠ .init d) (haccept : P (s.accept i))
    (hread : ∀ u w vs, P u → P { u with world := w, replies := u.replies ++ vs })
    (hturn : ∀ u, u.busy = true → P u → P (controllerTurn u))
    (hbus : ∀ u ans, u.busy = true → P u → P (busCompletes ans u)) : P t := by
  obtain ⟨hb, he, -⟩ := (State.ready_iff s).mp hs
  obtain ⟨n, u, hu, hrun⟩ : ∃ n, CommandRun i s n t := h.elim (execIsAcceptanceThenSteps s t i hb hi) id
  cases hu.symm.trans (exec_of_accepted (s := { s with world := [] }) hb he hi)
  exact hrun.keeps P haccept hread hturn hbus

/-! ### Control: the phases of a composite, and the operation in flight -/

/-- A composite runs in a phase of its own, with the operation in flight that the phase calls for, or has returned. -/
structure CompositeControl (u : State) : Prop where
  busy : u.busy = !decide (u.ph = .idle)
  ph : u.ph ≠ .prim
  fits : opFitsPhase u = true

/-- The operation that a turn issues is the one its phase calls for. -/
theorem opFitsPhase_controllerTurn {u : State} (h : CompositeControl u) : opFitsPhase (controllerTurn u) = true := by
  unfold controllerTurn
  split_ifs with hturn
  · simp only [Bool.and_eq_true, decide_eq_true_eq] at hturn
    obtain ⟨hb, hl⟩ := hturn
    cases hp : u.ph with
    | idle => simp [phaseTurn, opFitsPhase, hp, hl]
    | prim => exact absurd hp h.ph
    | enter =>
      rw [phaseTurn_enter hp, enterTurn]
      split_ifs <;> simp [opFitsPhase, hl]
    | start1 => simp [phaseTurn, opFitsPhase, startIssue, hp]
    | addrW => simp [phaseTurn, opFitsPhase, putIssue, hp]
    | regAddr => simp [phaseTurn, opFitsPhase, putIssue, hp]
    | start2 => simp [phaseTurn, opFitsPhase, startIssue, hp]
    | addrR => simp [phaseTurn, opFitsPhase, putIssue, hp]
    | dataTx => simp [phaseTurn, opFitsPhase, putIssue, hp]
    | dataRx => simp [phaseTurn, opFitsPhase, getIssue, moreToCome, hp]
    | stopping => simp [phaseTurn, opFitsPhase, stopIssue, hp]
  · exact h.fits

theorem CompositeControl.turn {u : State} (h : CompositeControl u) : CompositeControl (controllerTurn u) := by
  have hfits := opFitsPhase_controllerTurn h
  rcases controllerTurn_cases u with ⟨-, -, heq⟩ | ⟨⟨hb, -, -⟩, -, heq⟩ | ⟨-, hline⟩
  · rw [heq] at hfits ⊢
    exact ⟨rfl, by simp, hfits⟩
  · rw [heq] at hfits ⊢
    exact ⟨by simp [hb], by simp, hfits⟩
  · exact ⟨by rw [hline.busy_eq, hline.ph_eq, h.busy], by rw [hline.ph_eq]; exact h.ph, hfits⟩

theorem retryOrGiveUp_ph (c : ResultCode) (s : State) :
    (retryOrGiveUp c s).ph = .stopping ∨ (retryOrGiveUp c s).ph = .start1 := by
  unfold retryOrGiveUp
  split_ifs
  · exact .inl rfl
  · exact .inr rfl

/-- Short of the Stop the rows lead a composite from one of its phases to another. -/
theorem afterOperation_ph {s : State} (hi : s.ph ≠ .idle) (hp : s.ph ≠ .prim) (hst : s.ph ≠ .stopping) :
    (afterOperation s).ph ≠ .idle ∧ (afterOperation s).ph ≠ .prim := by
  have hretry (c : ResultCode) : (retryOrGiveUp c s).ph ≠ .idle ∧ (retryOrGiveUp c s).ph ≠ .prim := by
    rcases retryOrGiveUp_ph c s with h | h <;> simp [h]
  unfold afterOperation
  cases hph : s.ph with
  | idle => exact absurd hph hi
  | prim => exact absurd hph hp
  | stopping => exact absurd hph hst
  | enter => simp [hph]
  | start1 => simp only [afterStart1]; split_ifs <;> simp [hretry]
  | addrW => simp only [afterAddrW]; split_ifs <;> simp [hretry]
  | regAddr => simp only [afterRegAddr]; split_ifs <;> simp
  | start2 => simp only [afterStart2]; split_ifs <;> simp
  | addrR => simp only [afterAddrR]; split_ifs <;> simp
  | dataTx => simp only [afterDataTx]; split_ifs <;> simp [hph]
  | dataRx => simp only [afterDataRx, storeData]; split_ifs <;> simp [hph]

theorem afterOperation_control {q : State} (hb : q.busy = true) (hl : q.leOp = .none) (hi : q.ph ≠ .idle)
    (hp : q.ph ≠ .prim) (hst : q.ph ≠ .stopping) :
    (afterOperation q).busy = true ∧ CompositeControl (afterOperation q) := by
  obtain ⟨hi', hp'⟩ := afterOperation_ph hi hp hst
  have hb' : (afterOperation q).busy = true := by simp [afterOperation_busy, hst, hp, hb]
  exact ⟨hb', by simp [hb', hi'], hp', by simp [opFitsPhase, hl]⟩

/-- Everything a completion can do in a composite: nothing, the return behind the Stop, or one event that is no Stop and
the next phase. -/
theorem CompositeControl.bus_cases {u : State} (h : CompositeControl u) (hb : u.busy = true) (ans : Answer) :
    busCompletes ans u = u ∨
    busCompletes ans u = (stopDone ans u).returnCode u.rcp ∨
    ((busCompletes ans u).busy = true ∧ CompositeControl (busCompletes ans u) ∧
      ∃ e, e.isStop = false ∧ (busCompletes ans u).trace = u.trace ++ [e]) := by
  have hi : u.ph ≠ .idle := by simpa [hb] using h.busy
  have hp := h.ph
  have hfits := h.fits
  have hst (hl : u.leOp ≠ .none) (hl' : u.leOp ≠ .stop) : u.ph ≠ .stopping := by
    intro hst
    cases hop : u.leOp <;> simp_all [opFitsPhase]
  unfold busCompletes
  cases hl : u.leOp with
  | none => exact .inl rfl
  | stop =>
    have hst : u.ph = .stopping := by
      cases hp : u.ph <;> simp_all [opFitsPhase]
    exact .inr (.inl (by simp [afterOperation, stopDone, hst]))
  | start =>
    obtain ⟨hb', h'⟩ := afterOperation_control (q := startDone ans u) hb rfl hi hp (hst (by simp [hl]) (by simp [hl]))
    exact .inr (.inr ⟨hb', h', _, rfl, afterOperation_trace _⟩)
  | tx b =>
    obtain ⟨hb', h'⟩ := afterOperation_control (q := putDone b ans u) hb rfl hi hp (hst (by simp [hl]) (by simp [hl]))
    exact .inr (.inr ⟨hb', h', _, rfl, afterOperation_trace _⟩)
  | rx a =>
    obtain ⟨hb', h'⟩ := afterOperation_control (q := getDone a ans u) hb rfl hi hp (hst (by simp [hl]) (by simp [hl]))
    exact .inr (.inr ⟨hb', h', _, rfl, afterOperation_trace _⟩)

theorem CompositeControl.bus {u : State} (h : CompositeControl u) (hb : u.busy = true) (ans : Answer) :
    CompositeControl (busCompletes ans u) := by
  rcases h.bus_cases hb ans with heq | heq | ⟨-, h', -⟩
  · rw [heq]; exact h
  · have hl : (stopDone ans u).leOp = .none := rfl
    rw [heq]
    exact ⟨rfl, by simp, by simp [opFitsPhase, hl]⟩
  · exact h'

/-- A WRITE or a READ. -/
def IsComposite (i : Instr) (sla : SlaveAddr) (len reg : Byte) : Prop := i = .write sla len reg ∨ i = .read sla len reg

section
variable {i : Instr} {sla : SlaveAddr} {len reg : Byte} (hi : IsComposite i sla len reg) (s : State)
include hi

theorem IsComposite.ne_init (d : Divisor) : i ≠ .init d := by rcases hi with rfl | rfl <;> simp

theorem IsComposite.accept_ph : (s.accept i).ph = .enter := by rcases hi with rfl | rfl <;> rfl

theorem IsComposite.accept_dLen : (s.accept i).dLen = len := by rcases hi with rfl | rfl <;> rfl

theorem IsComposite.accept_control (hl : s.leOp = .none) : CompositeControl (s.accept i) := by
  have hp := hi.accept_ph s
  have hl' : (s.accept i).leOp = .none := hl
  exact ⟨by rw [hp]; rfl, by simp [hp], by simp [opFitsPhase, hl']⟩

end

/-! ### The one Stop -/

theorem stopCount_append (es fs : List Event) : stopCount (es ++ fs) = stopCount es + stopCount fs :=
  List.countP_append

/-- The command runs and has issued no Stop, or it has returned and its last event is its one Stop (R127). -/
def OneStop (s u : State) : Prop :=
  (u.busy = true ∧ ∃ es, u.trace = s.trace ++ es ∧ stopCount es = 0) ∨
  (u.busy = false ∧ ∃ es, u.trace = s.trace ++ es ++ [.stop] ∧ stopCount es = 0)

/-- Settles O40: with a length greater than 0 only the completion of the Stop returns. -/
theorem stopIsIssuedOnceAndLast : Obligations.StopIsIssuedOnceAndLast := by
  intro s t i sla len reg hs hlen (hi : IsComposite i sla len reg) h hend
  obtain ⟨-, -, hl⟩ := (State.ready_iff s).mp hs
  have hstop : CompositeControl t ∧ t.dLen ≠ 0 ∧ OneStop s t := by
    refine h.keeps (P := fun u => CompositeControl u ∧ u.dLen ≠ 0 ∧ OneStop s u) hs hi.ne_init ?_ ?_ ?_ ?_
    · exact ⟨hi.accept_control s hl, by rwa [hi.accept_dLen s], .inl ⟨rfl, [], by simp [State.accept], rfl⟩⟩
    · rintro u w vs ⟨hc, hu⟩
      exact ⟨⟨hc.busy, hc.ph, hc.fits⟩, hu⟩
    · rintro u hb ⟨hc, hlen', hu⟩
      refine ⟨hc.turn, by simpa using hlen', ?_⟩
      simpa [OneStop, controllerTurn_busy hlen'] using hu
    · rintro u ans hb ⟨hc, hlen', hu⟩
      refine ⟨hc.bus hb ans, by simpa using hlen', ?_⟩
      obtain ⟨-, es, hes, hcount⟩ | ⟨hb', -⟩ := hu
      · rcases hc.bus_cases hb ans with heq | heq | ⟨hb', -, e, he, htrace⟩
        · rw [heq]
          exact .inl ⟨hb, es, hes, hcount⟩
        · rw [heq]
          exact .inr ⟨rfl, es, by simp [stopDone, hes], hcount⟩
        · refine .inl ⟨hb', es ++ [e], by rw [htrace, hes, List.append_assoc], ?_⟩
          rw [stopCount_append, hcount]
          simp [stopCount, he]
      · exact absurd (hb.symm.trans hb') (by simp)
  obtain ⟨-, -, ⟨hb, -⟩ | ⟨-, hes⟩⟩ := hstop
  · exact absurd (hb.symm.trans hend) (by simp)
  · exact hes

/-! ### What a composite has done, phase by phase -/

theorem startAttempts_append (es fs : List Event) : startAttempts (es ++ fs) = startAttempts es + startAttempts fs :=
  List.countP_append

theorem receiveAcks_append (es fs : List Event) : receiveAcks (es ++ fs) = receiveAcks es ++ receiveAcks fs := by
  induction es with
  | nil => rfl
  | cons e es ih => cases e <;> simp [receiveAcks, ih]

/-- Before its data phase a composite of some length has received and stored nothing. -/
structure Untouched (s u : State) (es : List Event) : Prop where
  len : 0 < u.dLen.toNat
  buf : u.buf = s.buf
  acks : receiveAcks es = []

/-- What a composite that ends with the code `c` has done (R130, R136, R43). -/
structure EndsWith (s u : State) (es : List Event) (c : BitVec 4) : Prop where
  starts : startAttempts es ≤ u.cfg.maxRestarts.toNat + u.dDir.toNat
  beyond : ∀ j, u.dLen.toNat ≤ j → u.buf.read j = s.buf.read j
  buf : u.dDir = false ∨ c ≠ 0 → u.buf = s.buf
  acks : u.dDir = true → u.dLen ≠ 0 → c = 0 →
    receiveAcks es = List.replicate (u.dLen.toNat - 1) true ++ [false]

/-- What a composite has done, with the events `es`, where it stands in its phase. -/
def CompositeFacts (s u : State) (es : List Event) : Prop :=
  match u.ph with
  | .enter => u.buf = s.buf ∧ es = []
  | .start1 => Untouched s u es ∧ 0 < u.retry.toNat ∧ startAttempts es + u.retry.toNat ≤ u.cfg.maxRestarts.toNat
  | .addrW => Untouched s u es ∧ 0 < u.retry.toNat ∧ startAttempts es + u.retry.toNat ≤ u.cfg.maxRestarts.toNat + 1
  | .regAddr => Untouched s u es ∧ startAttempts es ≤ u.cfg.maxRestarts.toNat
  | .start2 => u.dDir = true ∧ Untouched s u es ∧ startAttempts es ≤ u.cfg.maxRestarts.toNat
  | .addrR => u.dDir = true ∧ Untouched s u es ∧ startAttempts es ≤ u.cfg.maxRestarts.toNat + 1
  | .dataTx => u.dDir = false ∧ Untouched s u es ∧ startAttempts es ≤ u.cfg.maxRestarts.toNat
  | .dataRx => u.dDir = true ∧ u.idx.toNat < u.dLen.toNat ∧ startAttempts es ≤ u.cfg.maxRestarts.toNat + 1 ∧
      (∀ j, u.dLen.toNat ≤ j → u.buf.read j = s.buf.read j) ∧ receiveAcks es = List.replicate u.idx.toNat true
  | .stopping => EndsWith s u es u.rcp
  | .idle => EndsWith s u es u.rc
  | .prim => False

theorem untouched_iff {s u : State} {es : List Event} :
    Untouched s u es ↔ 0 < u.dLen.toNat ∧ u.buf = s.buf ∧ receiveAcks es = [] :=
  ⟨fun h => ⟨h.len, h.buf, h.acks⟩, fun ⟨hlen, hbuf, hacks⟩ => ⟨hlen, hbuf, hacks⟩⟩

theorem endsWith_iff {s u : State} {es : List Event} {c : BitVec 4} :
    EndsWith s u es c ↔ startAttempts es ≤ u.cfg.maxRestarts.toNat + u.dDir.toNat ∧
      (∀ j, u.dLen.toNat ≤ j → u.buf.read j = s.buf.read j) ∧ (u.dDir = false ∨ c ≠ 0 → u.buf = s.buf) ∧
      (u.dDir = true → u.dLen ≠ 0 → c = 0 →
        receiveAcks es = List.replicate (u.dLen.toNat - 1) true ++ [false]) :=
  ⟨fun h => ⟨h.starts, h.beyond, h.buf, h.acks⟩, fun ⟨hs, hb, hu, ha⟩ => ⟨hs, hb, hu, ha⟩⟩

/-- The facts speak of no latch of the line engine, and neither of the world nor of the replies. -/
theorem CompositeFacts.setLine {s u : State} {es : List Event} (h : CompositeFacts s u es) (op : LineOp) (d a : Bool)
    (b : Byte) (w : List Stimulus) (vs : List Word) : CompositeFacts s { u with
      leOp := op, done := d, shift := b, ackPol := a, world := w, replies := vs } es := by
  simpa only [CompositeFacts, untouched_iff, endsWith_iff] using h

section
variable {s q : State} {es : List Event}

/-- A composite that fails before its data phase, or a WRITE that fails in it, has stored nothing. -/
theorem facts_failed {c : ResultCode} (hc : c ≠ .ok) (hcfg : q.cfg.legal = true) (hu : Untouched s q es)
    (hstarts : startAttempts es ≤ q.cfg.maxRestarts.toNat + q.dDir.toNat) : CompositeFacts s (q.decideResult c) es where
  starts := hstarts
  beyond _ _ := congrArg (Memory.read · _) hu.buf
  buf _ := hu.buf
  acks _ _ h0 := by
    rw [State.decideResult_rcp, ResultCode.code_of_legal hcfg] at h0
    cases c <;> simp_all

/-- A failed attempt of PREFIX(), whose Start is among the events (R125). -/
theorem facts_retryOrGiveUp {c : ResultCode} (hc : c ≠ .ok) (hcfg : q.cfg.legal = true) (hu : Untouched s q es)
    (hpos : 0 < q.retry.toNat) (hstarts : startAttempts es + q.retry.toNat ≤ q.cfg.maxRestarts.toNat + 1) :
    CompositeFacts s (retryOrGiveUp c q) es := by
  unfold retryOrGiveUp
  split_ifs with hlast
  · exact facts_failed (q := { q with retry := 0 }) hc hcfg ⟨hu.len, hu.buf, hu.acks⟩ (by simp; omega)
  · have hsub := retry_sub_one hpos
    exact ⟨⟨hu.len, hu.buf, hu.acks⟩, byte_pos_of_ne_zero hlast, by simp only [hsub]; omega⟩

/-! The rows of each phase, behind the operation, whose event is the last of `es`. -/

theorem facts_afterStart1 (hcfg : q.cfg.legal = true) (hu : Untouched s q es) (hpos : 0 < q.retry.toNat)
    (hstarts : startAttempts es + q.retry.toNat ≤ q.cfg.maxRestarts.toNat + 1) :
    CompositeFacts s (afterStart1 q) es := by
  unfold afterStart1
  split_ifs
  · exact ⟨⟨hu.len, hu.buf, hu.acks⟩, hpos, hstarts⟩
  · exact facts_retryOrGiveUp (by simp) hcfg hu hpos hstarts

theorem facts_afterAddrW (hcfg : q.cfg.legal = true) (hu : Untouched s q es) (hpos : 0 < q.retry.toNat)
    (hstarts : startAttempts es + q.retry.toNat ≤ q.cfg.maxRestarts.toNat + 1) :
    CompositeFacts s (afterAddrW q) es := by
  unfold afterAddrW
  split_ifs
  · exact ⟨⟨hu.len, hu.buf, hu.acks⟩, by simp only; omega⟩
  · exact facts_retryOrGiveUp (by simp) hcfg hu hpos hstarts
  · exact facts_failed (by simp) hcfg hu (by omega)

theorem facts_afterRegAddr (hcfg : q.cfg.legal = true) (hu : Untouched s q es)
    (hstarts : startAttempts es ≤ q.cfg.maxRestarts.toNat) : CompositeFacts s (afterRegAddr q) es := by
  unfold afterRegAddr
  split_ifs with hack hdir
  · exact ⟨hdir, ⟨hu.len, hu.buf, hu.acks⟩, hstarts⟩
  · exact ⟨by simpa using hdir, ⟨hu.len, hu.buf, hu.acks⟩, hstarts⟩
  · exact facts_failed (by simp) hcfg hu (by omega)
  · exact facts_failed (by simp) hcfg hu (by omega)

theorem facts_afterStart2 (hcfg : q.cfg.legal = true) (hdir : q.dDir = true) (hu : Untouched s q es)
    (hstarts : startAttempts es ≤ q.cfg.maxRestarts.toNat + 1) : CompositeFacts s (afterStart2 q) es := by
  unfold afterStart2
  split_ifs
  · exact ⟨hdir, ⟨hu.len, hu.buf, hu.acks⟩, hstarts⟩
  · exact facts_failed (by simp) hcfg hu (by simpa [hdir] using hstarts)

theorem facts_afterAddrR (hcfg : q.cfg.legal = true) (hdir : q.dDir = true) (hu : Untouched s q es)
    (hstarts : startAttempts es ≤ q.cfg.maxRestarts.toNat + 1) : CompositeFacts s (afterAddrR q) es := by
  unfold afterAddrR
  split_ifs
  · exact ⟨hdir, hu.len, hstarts, fun j _ => congrArg (Memory.read · j) hu.buf, hu.acks⟩
  · exact facts_failed (by simp) hcfg hu (by simpa [hdir] using hstarts)

theorem facts_afterDataTx (hcfg : q.cfg.legal = true) (hp : q.ph = .dataTx) (hdir : q.dDir = false)
    (hu : Untouched s q es) (hstarts : startAttempts es ≤ q.cfg.maxRestarts.toNat) :
    CompositeFacts s (afterDataTx q) es := by
  unfold afterDataTx
  split_ifs
  · simp only [CompositeFacts, hp]
    exact ⟨hdir, ⟨hu.len, hu.buf, hu.acks⟩, hstarts⟩
  · exact ⟨by simp; omega, fun j _ => congrArg (Memory.read · j) hu.buf, fun _ => hu.buf,
      fun h => absurd (hdir.symm.trans h) (by simp)⟩
  · exact facts_failed (by simp) hcfg hu (by omega)
  · exact facts_failed (by simp) hcfg hu (by omega)

/-- The byte received is stored below the length, and the acknowledgement was chosen by whether it is the last. -/
theorem facts_afterDataRx (hcfg : q.cfg.legal = true) (hp : q.ph = .dataRx) (hdir : q.dDir = true)
    (hidx : q.idx.toNat < q.dLen.toNat)
    (hstarts : startAttempts es ≤ q.cfg.maxRestarts.toNat + 1)
    (hbeyond : ∀ j, q.dLen.toNat ≤ j → q.buf.read j = s.buf.read j)
    (hacks : receiveAcks es = List.replicate q.idx.toNat true ++ [moreToCome q]) :
    CompositeFacts s (afterDataRx q) es := by
  have hstored : ∀ j, q.dLen.toNat ≤ j → (storeData q).buf.read j = s.buf.read j := fun j hj =>
    (Memory.read_write_ne q.buf q.data (by omega)).trans (hbeyond j hj)
  unfold afterDataRx
  split_ifs with hmore
  · simp only [CompositeFacts, storeData, hp, idx_add_one hmore]
    refine ⟨hdir, hmore, hstarts, hstored, ?_⟩
    rw [hacks, moreToCome, decide_eq_true hmore, List.replicate_succ']
  · have hok : ResultCode.ok.code q.cfg = 0 := ResultCode.code_of_legal hcfg _
    refine ⟨by simpa [storeData, hdir] using hstarts, hstored, ?_, fun _ _ _ => ?_⟩
    · rintro (h | h)
      · exact absurd (hdir.symm.trans h) (by simp)
      · exact absurd hok h
    · have hlast : q.dLen.toNat - 1 = q.idx.toNat := by omega
      rw [hacks, moreToCome, decide_eq_false hmore, ← hlast]
      rfl

end

section
variable {u : State} (ans : Answer)

theorem busCompletes_trace_start (hl : u.leOp = .start) :
    (busCompletes ans u).trace = u.trace ++ [.start (startKind u) ans.status] := by
  simp [busCompletes, hl, startDone, startKind]

theorem busCompletes_trace_stop (hl : u.leOp = .stop) : (busCompletes ans u).trace = u.trace ++ [.stop] := by
  simp [busCompletes, hl, stopDone]

theorem busCompletes_trace_tx {b : Byte} (hl : u.leOp = .tx b) :
    (busCompletes ans u).trace = u.trace ++ [.tx b ans.status] := by
  simp [busCompletes, hl, putDone]

theorem busCompletes_trace_rx {a : Bool} (hl : u.leOp = .rx a) :
    (busCompletes ans u).trace = u.trace ++ [.rx ans.byte a] := by
  simp [busCompletes, hl, getDone]

end

/-! What a procedure adds to the events, and what it leaves of the facts. -/

@[simp] theorem startAttempts_start (es : List Event) (k : StartKind) (hs : HwStatus) :
    startAttempts (es ++ [.start k hs]) = startAttempts es + 1 := by simp [startAttempts, Event.isStart]

@[simp] theorem startAttempts_tx (es : List Event) (b : Byte) (hs : HwStatus) :
    startAttempts (es ++ [.tx b hs]) = startAttempts es := by simp [startAttempts, Event.isStart]

@[simp] theorem startAttempts_rx (es : List Event) (b : Byte) (a : Bool) :
    startAttempts (es ++ [.rx b a]) = startAttempts es := by simp [startAttempts, Event.isStart]

@[simp] theorem startAttempts_stop (es : List Event) : startAttempts (es ++ [.stop]) = startAttempts es := by
  simp [startAttempts, Event.isStart]

theorem Untouched.startDone {s u : State} {es : List Event} (h : Untouched s u es) (ans : Answer) (k : StartKind) :
    Untouched s (startDone ans u) (es ++ [.start k ans.status]) :=
  ⟨h.len, h.buf, by simp [receiveAcks_append, receiveAcks, h.acks]⟩

theorem Untouched.putDone {s u : State} {es : List Event} (h : Untouched s u es) (b : Byte) (ans : Answer) :
    Untouched s (putDone b ans u) (es ++ [.tx b ans.status]) :=
  ⟨by simpa [Machine.putDone] using h.len, by simpa [Machine.putDone] using h.buf,
    by simp [receiveAcks_append, receiveAcks, h.acks]⟩

/-! ### Every step keeps it -/

/-- A composite accepted in `s` has put the events `es` on the bus, and stands in `u`. -/
structure CompositeStage (s : State) (es : List Event) (u : State) : Prop where
  control : CompositeControl u
  trace : u.trace = s.trace ++ es
  en : u.en = s.en
  div : u.div = s.div
  cfg : u.cfg = s.cfg
  facts : CompositeFacts s u es
  receive : u.dDir = false → u.data = s.data ∧ u.ackPol = s.ackPol

section
variable {s u : State} {es : List Event} (h : CompositeStage s es u)
include h

theorem CompositeStage.read (w : List Stimulus) (vs : List Word) :
    CompositeStage s es { u with world := w, replies := u.replies ++ vs } :=
  ⟨⟨h.control.busy, h.control.ph, h.control.fits⟩, h.trace, h.en, h.div, h.cfg,
    h.facts.setLine u.leOp u.done u.ackPol u.shift w _, h.receive⟩

/-- A turn chooses an acknowledgement in `DATA_RX` alone, where a WRITE never stands. -/
theorem CompositeStage.turn_receive (hd : u.dDir = false) :
    (controllerTurn u).data = s.data ∧ (controllerTurn u).ackPol = s.ackPol := by
  obtain ⟨hdata, hack⟩ := h.receive hd
  refine ⟨by rw [controllerTurn_data, hdata], Eq.trans ?_ hack⟩
  have hf := h.facts
  unfold controllerTurn
  split_ifs
  · cases hp : u.ph with
    | prim => exact absurd hp h.control.ph
    | dataRx =>
      simp only [CompositeFacts, hp] at hf
      exact absurd (hd.symm.trans hf.1) (by simp)
    | enter => rw [phaseTurn_enter hp, enterTurn]; split_ifs <;> rfl
    | idle | start1 | addrW | regAddr | start2 | addrR | dataTx | stopping =>
      simp [phaseTurn, hp, startIssue, putIssue, stopIssue]
  · rfl

/-- A completion writes `DATA` behind a receive alone, which only `DATA_RX` issues. -/
theorem CompositeStage.bus_receive (ans : Answer) (hd : u.dDir = false) :
    (busCompletes ans u).data = s.data ∧ (busCompletes ans u).ackPol = s.ackPol := by
  obtain ⟨hdata, hack⟩ := h.receive hd
  have hf := h.facts
  have hfits := h.control.fits
  have hprim := h.control.ph
  unfold busCompletes
  cases hop : u.leOp with
  | none => exact ⟨hdata, hack⟩
  | start => simp [startDone, hdata, hack]
  | stop => simp [stopDone, hdata, hack]
  | tx b => simp [putDone, hdata, hack]
  | rx a =>
    have hp : u.ph = .dataRx := by cases hp : u.ph <;> simp_all [opFitsPhase]
    simp only [CompositeFacts, hp] at hf
    exact absurd (hd.symm.trans hf.1) (by simp)

end

section
variable {s u : State} {es : List Event} (hcfg : s.cfg.legal = true) (h : CompositeStage s es u)
include hcfg h

theorem CompositeStage.turn_facts : CompositeFacts s (controllerTurn u) es := by
  have hf := h.facts
  have hu : u.cfg.legal = true := by rw [h.cfg]; exact hcfg
  rcases controllerTurn_cases u with ⟨⟨-, -, hp⟩, hlen, heq⟩ | ⟨⟨-, -, hp⟩, hlen, heq⟩ | ⟨-, op, d, b, a, heq⟩
  · simp only [CompositeFacts, hp] at hf
    obtain ⟨hbuf, rfl⟩ := hf
    rw [heq]
    exact ⟨by simp [startAttempts], fun j _ => congrArg (Memory.read · j) hbuf, fun _ => hbuf,
      fun _ hne => absurd hlen hne⟩
  · simp only [CompositeFacts, hp] at hf
    obtain ⟨hbuf, rfl⟩ := hf
    rw [heq]
    exact ⟨⟨byte_pos_of_ne_zero hlen, hbuf, rfl⟩, Config.maxRestarts_pos hu, by simp [startAttempts]⟩
  · rw [heq]
    exact hf.setLine op d a b u.world u.replies

/-- The completion of an operation: its event, and the rows of the phase. -/
theorem CompositeStage.bus_facts (hb : u.busy = true) (hl : u.leOp ≠ .none) (ans : Answer) :
    ∃ e, (busCompletes ans u).trace = u.trace ++ [e] ∧ CompositeFacts s (busCompletes ans u) (es ++ [e]) := by
  have hu : u.cfg.legal = true := by rw [h.cfg]; exact hcfg
  have hf := h.facts
  have hfits := h.control.fits
  cases hp : u.ph with
  | idle => exact absurd hb (by simp [h.control.busy, hp])
  | prim => exact absurd hp h.control.ph
  | enter => exact absurd hfits (by cases hop : u.leOp <;> simp_all [opFitsPhase])
  | start1 =>
    have hop : u.leOp = .start := by cases hop : u.leOp <;> simp_all [opFitsPhase]
    simp only [CompositeFacts, hp] at hf
    obtain ⟨hun, hpos, hstarts⟩ := hf
    refine ⟨_, busCompletes_trace_start ans hop, ?_⟩
    rw [busCompletes_start1 ans hp hop]
    exact facts_afterStart1 hu (hun.startDone ans _) hpos (by simp [startDone]; omega)
  | addrW =>
    obtain ⟨b, hop⟩ : ∃ b, u.leOp = .tx b := by cases hop : u.leOp <;> simp_all [opFitsPhase]
    simp only [CompositeFacts, hp] at hf
    obtain ⟨hun, hpos, hstarts⟩ := hf
    refine ⟨_, busCompletes_trace_tx ans hop, ?_⟩
    rw [busCompletes_addrW ans hp hop]
    exact facts_afterAddrW hu (hun.putDone b ans) hpos (by simpa [putDone] using hstarts)
  | regAddr =>
    obtain ⟨b, hop⟩ : ∃ b, u.leOp = .tx b := by cases hop : u.leOp <;> simp_all [opFitsPhase]
    simp only [CompositeFacts, hp] at hf
    obtain ⟨hun, hstarts⟩ := hf
    refine ⟨_, busCompletes_trace_tx ans hop, ?_⟩
    rw [busCompletes_regAddr ans hp hop]
    exact facts_afterRegAddr hu (hun.putDone b ans) (by simpa [putDone] using hstarts)
  | start2 =>
    have hop : u.leOp = .start := by cases hop : u.leOp <;> simp_all [opFitsPhase]
    simp only [CompositeFacts, hp] at hf
    obtain ⟨hdir, hun, hstarts⟩ := hf
    refine ⟨_, busCompletes_trace_start ans hop, ?_⟩
    rw [busCompletes_start2 ans hp hop]
    exact facts_afterStart2 hu hdir (hun.startDone ans _) (by simpa [startDone] using hstarts)
  | addrR =>
    obtain ⟨b, hop⟩ : ∃ b, u.leOp = .tx b := by cases hop : u.leOp <;> simp_all [opFitsPhase]
    simp only [CompositeFacts, hp] at hf
    obtain ⟨hdir, hun, hstarts⟩ := hf
    refine ⟨_, busCompletes_trace_tx ans hop, ?_⟩
    rw [busCompletes_addrR ans hp hop]
    exact facts_afterAddrR hu (by simpa [putDone] using hdir) (hun.putDone b ans) (by simpa [putDone] using hstarts)
  | dataTx =>
    obtain ⟨b, hop⟩ : ∃ b, u.leOp = .tx b := by cases hop : u.leOp <;> simp_all [opFitsPhase]
    simp only [CompositeFacts, hp] at hf
    obtain ⟨hdir, hun, hstarts⟩ := hf
    refine ⟨_, busCompletes_trace_tx ans hop, ?_⟩
    rw [busCompletes_dataTx ans hp hop]
    exact facts_afterDataTx hu (by simpa [putDone] using hp) (by simpa [putDone] using hdir) (hun.putDone b ans)
      (by simpa [putDone] using hstarts)
  | dataRx =>
    have hop : u.leOp = .rx (moreToCome u) := by cases hop : u.leOp <;> simp_all [opFitsPhase]
    simp only [CompositeFacts, hp] at hf
    obtain ⟨hdir, hidx, hstarts, hbeyond, hacks⟩ := hf
    refine ⟨_, busCompletes_trace_rx ans hop, ?_⟩
    rw [busCompletes_dataRx ans hp hop]
    refine facts_afterDataRx hu hp hdir hidx (by simpa [getDone] using hstarts) hbeyond ?_
    rw [receiveAcks_append, hacks]
    rfl
  | stopping =>
    have hop : u.leOp = .stop := by cases hop : u.leOp <;> simp_all [opFitsPhase]
    simp only [CompositeFacts, hp] at hf
    refine ⟨_, busCompletes_trace_stop ans hop, ?_⟩
    rw [busCompletes_stopping ans hp hop]
    exact ⟨by simpa [stopDone] using hf.starts, hf.beyond, hf.buf,
      fun hd hl h0 => by rw [receiveAcks_append, hf.acks hd hl h0]; simp [receiveAcks, stopDone]⟩

theorem CompositeStage.turn : CompositeStage s es (controllerTurn u) where
  control := h.control.turn
  trace := by rw [controllerTurn_trace, h.trace]
  en := by rw [controllerTurn_en, h.en]
  div := by rw [controllerTurn_div, h.div]
  cfg := by rw [controllerTurn_cfg, h.cfg]
  facts := h.turn_facts hcfg
  receive hd := h.turn_receive (by simpa using hd)

theorem CompositeStage.bus (hb : u.busy = true) (ans : Answer) : ∃ es', CompositeStage s es' (busCompletes ans u) := by
  by_cases hl : u.leOp = .none
  · exact ⟨es, by rwa [busCompletes_of_none ans hl]⟩
  · obtain ⟨e, htrace, hfacts⟩ := h.bus_facts hcfg hb hl ans
    exact ⟨es ++ [e], h.control.bus hb ans, by rw [htrace, h.trace, List.append_assoc], by rw [busCompletes_en, h.en],
      by rw [busCompletes_div, h.div], by rw [busCompletes_cfg, h.cfg], hfacts,
      fun hd => h.bus_receive ans (by simpa using hd)⟩

end

/-- Whatever a composite reaches, it has done what the phase it stands in says. -/
theorem IsComposite.stage_of_reaches {i : Instr} {sla : SlaveAddr} {len reg : Byte} (hi : IsComposite i sla len reg)
    {s t : State} (hs : s.ready = true) (hcfg : s.cfg.legal = true) (h : Reaches i s t) :
    ∃ es, CompositeStage s es t ∧ t.dDir = (descriptorOf i).dir ∧ t.dLen = len := by
  obtain ⟨-, -, hl⟩ := (State.ready_iff s).mp hs
  refine h.keeps (P := fun u => ∃ es, CompositeStage s es u ∧ u.dDir = (descriptorOf i).dir ∧ u.dLen = len) hs
    hi.ne_init ?_ ?_ ?_ ?_
  · refine ⟨[], ⟨hi.accept_control s hl, by simp [State.accept], rfl, rfl, rfl, ?_, fun _ => ⟨rfl, rfl⟩⟩, rfl,
      hi.accept_dLen s⟩
    simp only [CompositeFacts, hi.accept_ph s]
    exact ⟨rfl, trivial⟩
  · rintro u w vs ⟨es, hu, hd⟩
    exact ⟨es, hu.read w vs, hd⟩
  · rintro u hb ⟨es, hu, hd⟩
    exact ⟨es, hu.turn hcfg, by simpa using hd⟩
  · rintro u ans hb ⟨es, hu, hd⟩
    obtain ⟨es', hu'⟩ := hu.bus hcfg hb ans
    exact ⟨es', hu', by simpa using hd⟩

/-! ### What follows in every phase -/

section
variable {s u : State} {es : List Event} (h : CompositeFacts s u es)
include h

theorem CompositeFacts.starts_le : startAttempts es ≤ u.cfg.maxRestarts.toNat + u.dDir.toNat := by
  cases hp : u.ph <;> simp only [CompositeFacts, hp] at h
  case enter => simp [h.2, startAttempts]
  case start1 | addrW | regAddr | dataTx | start2 => omega
  case addrR | dataRx => simp [h.1]; omega
  case stopping | idle => exact h.starts

theorem CompositeFacts.buf_of_write (hd : u.dDir = false) : u.buf = s.buf := by
  cases hp : u.ph <;> simp only [CompositeFacts, hp] at h
  case enter => exact h.1
  case start1 | addrW | regAddr => exact h.1.buf
  case dataTx => exact h.2.1.buf
  case addrR | dataRx | start2 => exact absurd (hd.symm.trans h.1) (by simp)
  case stopping | idle => exact h.buf (.inl hd)

theorem CompositeFacts.beyond (j : Nat) (hj : u.dLen.toNat ≤ j) : u.buf.read j = s.buf.read j := by
  cases hd : u.dDir with
  | false => rw [h.buf_of_write hd]
  | true =>
    cases hp : u.ph <;> simp only [CompositeFacts, hp] at h
    case enter => rw [h.1]
    case start1 | addrW | regAddr => rw [h.1.buf]
    case addrR | start2 | dataTx => rw [h.2.1.buf]
    case dataRx => exact h.2.2.2.1 j hj
    case stopping | idle => exact h.beyond j hj

end

theorem CompositeStage.ends {s u : State} {es : List Event} (h : CompositeStage s es u) (hb : u.busy = false) :
    EndsWith s u es u.rc := by
  have hp : u.ph = .idle := by simpa [hb] using h.control.busy
  simpa only [CompositeFacts, hp] using h.facts

/-- Settles O41: the Starts of PREFIX() are counted down, and only a READ makes one more. -/
theorem startAttemptsAreBounded : Obligations.StartAttemptsAreBounded := by
  intro s t sla len reg hs hcfg
  constructor
  · intro h
    obtain ⟨es, hstage, hd, -⟩ := IsComposite.stage_of_reaches (len := len) (.inl rfl) hs hcfg h
    exact ⟨es, hstage.trace, by simpa [hstage.cfg, hd, descriptorOf, Instr.opcode] using hstage.facts.starts_le⟩
  · intro h
    obtain ⟨es, hstage, hd, -⟩ := IsComposite.stage_of_reaches (len := len) (.inr rfl) hs hcfg h
    exact ⟨es, hstage.trace, by simpa [hstage.cfg, hd, descriptorOf, Instr.opcode] using hstage.facts.starts_le⟩

/-- Settles O42: the acknowledgements of each byte, as the phase keeps them. -/
theorem readAcknowledgesAllButTheLastByte : Obligations.ReadAcknowledgesAllButTheLastByte := by
  intro s t sla len reg hs hcfg hlen h hb hrc
  obtain ⟨es, hstage, hd, rfl⟩ := IsComposite.stage_of_reaches (len := len) (.inr rfl) hs hcfg h
  exact ⟨es, hstage.trace, (hstage.ends hb).acks (by simp [hd, descriptorOf, Instr.opcode]) hlen hrc⟩

/-! ### The frame -/

theorem exec_replies {s t : State} {i : Instr} (hi : ∀ d, i ≠ .init d) (h : exec i s = .next t) :
    t.replies = s.replies := by
  obtain ⟨-, ⟨d, hd, -⟩ | ⟨-, -, rfl⟩⟩ := exec_eq_next h
  · exact absurd hd (hi d)
  · exact runController_replies _ _

theorem Reaches.replies {s t : State} {i : Instr} (h : Reaches i s t) (hs : s.ready = true) (hi : ∀ d, i ≠ .init d) :
    ∃ vs, t.replies = s.replies ++ vs := by
  refine h.keeps (P := fun u => ∃ vs, u.replies = s.replies ++ vs) hs hi ⟨[], by simp [State.accept]⟩ ?_ ?_ ?_
  · rintro u w vs ⟨vs', hu⟩
    exact ⟨vs' ++ vs, by simp [hu]⟩
  · exact fun u _ hu => by simpa using hu
  · exact fun u _ _ hu => by simpa using hu

/-- Settles O44, by what holds in every phase. -/
theorem compositeFrame : Obligations.CompositeFrame := by
  intro s t sla len reg hs hcfg
  constructor
  · intro h
    obtain ⟨es, hstage, hd, -⟩ := IsComposite.stage_of_reaches (len := len) (.inl rfl) hs hcfg h
    replace hd : t.dDir = false := by simp [hd, descriptorOf, Instr.opcode]
    obtain ⟨hdata, hack⟩ := hstage.receive hd
    exact ⟨fun j => congrArg (Memory.read · j) (hstage.facts.buf_of_write hd), hdata, hack, hstage.en, hstage.div,
      hstage.cfg, exec_replies (by simp), h.replies hs (by simp)⟩
  · intro h
    obtain ⟨es, hstage, hd, rfl⟩ := IsComposite.stage_of_reaches (len := len) (.inr rfl) hs hcfg h
    exact ⟨hstage.facts.beyond, fun hb hrc j => congrArg (Memory.read · j) ((hstage.ends hb).buf (.inr hrc)),
      hstage.en, hstage.div, hstage.cfg, exec_replies (by simp), h.replies hs (by simp)⟩

end Sys2Proof.Machine
end

section
/-! PROOFS. The reference slave: a command that runs against it runs over the answers the slave gives, and what a WRITE
has stored there a READ brings back (R136 P7). -/

namespace Sys2Proof.Machine

/-! ### The slave over the events of a trace -/

/-- The slave's answer to the operation that an event records. -/
def Slave.answerEvent (spare : Answer) (sl : Slave) : Event → Answer × Slave
  | .start kind _ => sl.answer spare (decide (kind = .repeated)) .start
  | .stop => sl.answer spare false .stop
  | .tx b _ => sl.answer spare false (.tx b)
  | .rx _ ack => sl.answer spare false (.rx ack)

def Slave.answerEvents (spare : Answer) : List Event → Slave → List Answer × Slave
  | [], sl => ([], sl)
  | e :: es, sl =>
    ((sl.answerEvent spare e).1 :: (answerEvents spare es (sl.answerEvent spare e).2).1,
      (answerEvents spare es (sl.answerEvent spare e).2).2)

theorem Slave.answerEvents_append (spare : Answer) (es fs : List Event) (sl : Slave) :
    answerEvents spare (es ++ fs) sl =
      ((answerEvents spare es sl).1 ++ (answerEvents spare fs (answerEvents spare es sl).2).1,
        (answerEvents spare fs (answerEvents spare es sl).2).2) := by
  induction es generalizing sl with
  | nil => rfl
  | cons e es ih => simp [answerEvents, ih]

@[simp] theorem Slave.answerEvents_length (spare : Answer) (es : List Event) (sl : Slave) :
    (answerEvents spare es sl).1.length = es.length := by
  induction es generalizing sl with
  | nil => rfl
  | cons e es ih => simp [answerEvents, ih]

/-- A completion appends the event of the operation in flight, and to that the slave answers as to the operation. -/
theorem busCompletes_answerEvent {u : State} (hl : u.leOp ≠ .none) (spare ans : Answer) (sl : Slave) :
    ∃ e, (busCompletes ans u).trace = u.trace ++ [e] ∧ sl.answerEvent spare e = sl.answer spare u.held u.leOp := by
  cases hop : u.leOp with
  | none => exact absurd hop hl
  | start =>
    refine ⟨_, busCompletes_trace_start ans hop, ?_⟩
    cases hheld : u.held <;> simp [Slave.answerEvent, startKind, hheld]
  | stop => exact ⟨_, busCompletes_trace_stop ans hop, rfl⟩
  | tx b => exact ⟨_, busCompletes_trace_tx ans hop, rfl⟩
  | rx a => exact ⟨_, busCompletes_trace_rx ans hop, rfl⟩

/-! ### The block and the slave together -/

@[simp] theorem busCompletes_leOp (ans : Answer) (u : State) : (busCompletes ans u).leOp = .none := by
  unfold busCompletes
  cases hop : u.leOp with
  | none => exact hop
  | start => simp [startDone]
  | stop => simp [stopDone]
  | tx b => simp [putDone]
  | rx a => simp [getDone]

@[simp] theorem runPrompt_world (answers : List Answer) (m : State) : (runPrompt answers m).world = m.world := by
  induction answers generalizing m with
  | nil => simp [runPrompt]
  | cons ans rest ih => unfold runPrompt; split_ifs <;> simp [ih]

/-- An answer gives one event at most. -/
theorem runPrompt_trace (answers : List Answer) (m : State) :
    ∃ es, (runPrompt answers m).trace = m.trace ++ es ∧ es.length ≤ answers.length := by
  induction answers generalizing m with
  | nil => exact ⟨[], by simp [runPrompt]⟩
  | cons ans rest ih =>
    by_cases hb : m.busy = true
    · rw [runPrompt_cons hb]
      obtain ⟨es, htrace, hlength⟩ := ih (busCompletes ans (controllerTurn m))
      by_cases hl : (controllerTurn m).leOp = .none
      · rw [busCompletes_of_none ans hl] at htrace ⊢
        exact ⟨es, by simpa using htrace, by simp; omega⟩
      · obtain ⟨e, he⟩ := busCompletes_trace ans hl
        exact ⟨e :: es, by simp [htrace, he], by simpa using hlength⟩
    · rw [runPrompt_idle _ (by simpa using hb)]
      exact ⟨[], by simp⟩

theorem duoRun_idle (spare : Answer) (n : Nat) (sl : Slave) {m : State} (hb : m.busy = false) :
    duoRun spare n (sl, m) = (sl, m) := by
  cases n with
  | zero => rfl
  | succ n => simp [duoRun, hb]

theorem duoRun_turn (spare : Answer) (n : Nat) (sl : Slave) {m : State} (hb : m.busy = true) (hl : m.leOp = .none) :
    duoRun spare (n + 1) (sl, m) = duoRun spare n (sl, controllerTurn m) := by
  simp [duoRun, duoStep, hb, hl]

theorem duoRun_answer (spare : Answer) (n : Nat) (sl : Slave) {u : State} (hb : u.busy = true) (hl : u.leOp ≠ .none) :
    duoRun spare (n + 1) (sl, u) = duoRun spare n
      ((sl.answer spare u.held u.leOp).2, busCompletes (sl.answer spare u.held u.leOp).1 u) := by
  simp [duoRun, duoStep, hb, hl]

/-- Where the slave answers the events of a prompt run with the answers of that run, the block and the slave take it. -/
theorem duoRun_eq_runPrompt {spare : Answer} {answers : List Answer} {sl sl' : Slave} {m : State} {es : List Event}
    {n : Nat} (hl : m.leOp = .none) (hlen : m.dLen ≠ 0) (hend : (runPrompt answers m).busy = false)
    (htrace : (runPrompt answers m).trace = m.trace ++ es) (hans : Slave.answerEvents spare es sl = (answers, sl'))
    (hn : 2 * answers.length ≤ n) : duoRun spare n (sl, m) = (sl', runPrompt answers m) := by
  have hlength : es.length = answers.length := by rw [← Slave.answerEvents_length spare es sl, hans]
  induction answers generalizing sl m es n with
  | nil =>
    obtain rfl : es = [] := by simpa using hlength
    obtain ⟨-, rfl⟩ := Prod.mk.inj hans
    have hb : m.busy = false := (controllerTurn_busy hlen).symm.trans hend
    rw [runPrompt_idle [] hb, duoRun_idle spare n sl hb]
  | cons ans rest ih =>
    obtain ⟨n, rfl⟩ : ∃ k, n = k + 1 + 1 := ⟨n - 2, by simp at hn; omega⟩
    by_cases hb : m.busy = true
    · have hu : (controllerTurn m).busy = true := (controllerTurn_busy hlen).trans hb
      rw [runPrompt_cons hb] at hend htrace ⊢
      by_cases hop : (controllerTurn m).leOp = .none
      · obtain ⟨fs, hfs, hle⟩ := runPrompt_trace rest (controllerTurn m)
        rw [busCompletes_of_none ans hop, hfs, controllerTurn_trace, List.append_cancel_left_eq] at htrace
        simp [← htrace] at hlength
        omega
      · obtain ⟨e, he, hanswer⟩ := busCompletes_answerEvent hop spare ans sl
        obtain ⟨fs, hfs, -⟩ := runPrompt_trace rest (busCompletes ans (controllerTurn m))
        obtain rfl : e :: fs = es := by simpa [hfs, he] using htrace
        simp only [Slave.answerEvents, Prod.mk.injEq, List.cons.injEq] at hans
        obtain ⟨⟨hfirst, hrest⟩, hlast⟩ := hans
        rw [duoRun_turn spare _ sl hb hl, duoRun_answer spare n sl hu hop, ← hanswer, hfirst]
        exact ih (by simp) (by simpa using hlen) hend hfs (by rw [← hrest, ← hlast]) (by simp at hn; omega)
          (by simpa using hlength)
    · rw [runPrompt_idle _ (by simpa using hb), List.self_eq_append_right] at htrace
      simp [htrace] at hlength

/-- A procedure that ends with the slave's answers: the block, from the acceptance on, and the slave end as it does. -/
theorem duoRun_of_returns {spare : Answer} {answers : List Answer} {sl sl' : Slave} {u p : State} {c : ResultCode}
    {es : List Event} {n : Nat} (hb : u.busy = true) (hl : u.leOp = .none) (hp : u.ph = .enter) (hlen : u.dLen ≠ 0)
    (hret : Returns u (runPrompt answers u.loaded) c [] p) (htrace : p.trace = u.trace ++ es)
    (hans : Slave.answerEvents spare es sl = (answers, sl')) (hn : 2 * answers.length + 1 ≤ n) :
    ∃ r, duoRun spare n (sl, u) = (sl', { p with rcp := r }) := by
  obtain ⟨n, rfl⟩ : ∃ k, n = k + 1 := ⟨n - 1, by omega⟩
  obtain ⟨q, hq, rfl⟩ := hret
  have hworld : q.world = u.world := by
    have h := runPrompt_world answers u.loaded
    rwa [hq] at h
  refine ⟨q.rcp, ?_⟩
  rw [duoRun_turn spare n sl hb hl, controllerTurn_enter hb hl hp, if_neg hlen,
    duoRun_eq_runPrompt (m := u.loaded) (es := es) hl hlen (by rw [hq]; rfl) (by rw [hq]; exact htrace) hans
      (by omega), hq, State.procView, ← hworld]
  rfl

/-! ### The slave in its modes -/

theorem addrByte_extractLsb' (sla : SlaveAddr) (rw : Bool) : (addrByte sla rw).extractLsb' 1 7 = sla := by
  ext i hi
  simp [addrByte, show (sla ++ bit rw).getLsbD (1 + i) = _ from BitVec.getLsbD_append, hi]

theorem addrByte_getElem_zero (sla : SlaveAddr) (rw : Bool) : (addrByte sla rw)[0] = rw :=
  (BitVec.getElem_append (x := sla) (y := bit rw) (by decide)).trans (by simp [bit])

/-- The answer of the quiet bus to a Start. -/
def startAnswer (spare : Answer) (kind : StartKind) : Answer :=
  { spare with status := if kind = .repeated then .rstart else .start }

/-- The answer to a byte that the slave takes. -/
def ackAnswer (spare : Answer) : Answer := { spare with status := .txAck }

/-- The answer that brings the register `j` places behind `ptr`. -/
def regAnswer (spare : Answer) (regs : Memory) (ptr : Byte) (j : Nat) : Answer :=
  { spare with byte := regs.read (ptr + BitVec.ofNat 8 j).toNat }

theorem startOk_startAnswer (spare : Answer) (kind : StartKind) :
    startOk (startAnswer spare kind).status = true := by
  cases kind <;> rfl

section
variable (spare : Answer) (sl : Slave)

theorem Slave.answerEvent_start (kind : StartKind) (hs : HwStatus) :
    sl.answerEvent spare (.start kind hs) = (startAnswer spare kind, { sl with mode := .addr }) := by
  cases kind <;> rfl

theorem Slave.answerEvent_addrByte (hm : sl.mode = .addr) (dir : Bool) (hs : HwStatus) :
    sl.answerEvent spare (.tx (addrByte sl.address dir) hs) =
      (ackAnswer spare, { sl with mode := if dir then .rd else .wFirst }) := by
  simp [answerEvent, answer, onByte, hm, addrByte_extractLsb', addrByte_getElem_zero, ackAnswer]

theorem Slave.answerEvent_regByte (hm : sl.mode = .wFirst) (b : Byte) (hs : HwStatus) :
    sl.answerEvent spare (.tx b hs) = (ackAnswer spare, { sl with ptr := b, mode := .wData }) := by
  simp [answerEvent, answer, onByte, hm, ackAnswer]

theorem Slave.answerEvent_dataByte (hm : sl.mode = .wData) (b : Byte) (hs : HwStatus) :
    sl.answerEvent spare (.tx b hs) =
      (ackAnswer spare, { sl with regs := sl.regs.write sl.ptr.toNat b, ptr := sl.ptr + 1 }) := by
  simp [answerEvent, answer, onByte, hm, ackAnswer]

theorem Slave.answerEvent_receive (hm : sl.mode = .rd) (b : Byte) (ack : Bool) :
    sl.answerEvent spare (.rx b ack) = ({ spare with byte := sl.regs.read sl.ptr.toNat },
      { sl with ptr := sl.ptr + 1, mode := if ack then .rd else .idle }) := by
  simp [answerEvent, answer, onReceive, hm]

end

theorem byte_add_ofNat_succ (p : Byte) (n : Nat) : p + BitVec.ofNat 8 n + 1 = p + BitVec.ofNat 8 (n + 1) := by
  rw [BitVec.add_assoc, BitVec.ofNat_add]
  rfl

/-- The pointer does not come back to a register within 256 bytes. -/
theorem byte_add_ofNat_ne (p : Byte) {j n : Nat} (hj : j < n) (hn : n < 256) :
    (p + BitVec.ofNat 8 j).toNat ≠ (p + BitVec.ofNat 8 n).toNat := by
  simp only [BitVec.toNat_add, BitVec.toNat_ofNat]
  omega

/-- Bytes sent in write mode are stored one after the other from the pointer on. -/
theorem Slave.answerEvents_stored (spare : Answer) (f : Nat → Byte) {sl : Slave} (hm : sl.mode = .wData)
    (hwf : sl.regs.wf = true) (n : Nat) (hn : n ≤ 256) :
    ∃ regs : Memory, answerEvents spare ((List.range n).map fun j => .tx (f j) .txAck) sl =
        (List.replicate n (ackAnswer spare), { sl with regs := regs, ptr := sl.ptr + BitVec.ofNat 8 n }) ∧
      regs.wf = true ∧ ∀ j, j < n → regs.read (sl.ptr + BitVec.ofNat 8 j).toNat = f j := by
  induction n with
  | zero => exact ⟨sl.regs, by simp [answerEvents], hwf, by simp⟩
  | succ n ih =>
    obtain ⟨regs, heq, hregs, hread⟩ := ih (by omega)
    refine ⟨regs.write (sl.ptr + BitVec.ofNat 8 n).toNat (f n), ?_, Memory.wf_write _ hregs (BitVec.isLt _),
      fun j hj => ?_⟩
    · rw [List.range_succ, List.map_append, answerEvents_append, heq]
      simp only [List.map_cons, List.map_nil, answerEvents]
      rw [answerEvent_dataByte _ _ (by exact hm), List.replicate_succ', byte_add_ofNat_succ]
    · by_cases hjn : j = n
      · rw [hjn]
        exact Memory.read_write_eq _ hregs
      · rw [Memory.read_write_ne _ _ (byte_add_ofNat_ne _ (by omega) (by omega))]
        exact hread j (by omega)

/-- In read mode the slave sends its registers one after the other, up to the byte that is not acknowledged. -/
theorem Slave.answerEvents_sent (spare : Answer) (g : Nat → Byte) {sl : Slave} (hm : sl.mode = .rd) {len : Nat}
    (hlen : 0 < len) (n : Nat) (hn : n ≤ len) :
    answerEvents spare ((List.range n).map fun j => .rx (g j) (decide (j + 1 < len))) sl =
      ((List.range n).map (regAnswer spare sl.regs sl.ptr),
        { sl with ptr := sl.ptr + BitVec.ofNat 8 n, mode := if n < len then .rd else .idle }) := by
  induction n with
  | zero => simp [answerEvents, hlen, ← hm]
  | succ n ih =>
    rw [List.range_succ, List.map_append, answerEvents_append, ih (by omega), if_pos (by omega), List.map_append]
    simp only [List.map_cons, List.map_nil, answerEvents]
    rw [answerEvent_receive _ _ rfl, byte_add_ofNat_succ]
    simp [regAnswer]

/-! ### The answers to a whole command -/

/-- The answers to a WRITE of `n` bytes. -/
def writeAnswers (spare : Answer) (kind : StartKind) (n : Nat) : List Answer :=
  startAnswer spare kind :: ackAnswer spare :: ackAnswer spare :: (List.replicate n (ackAnswer spare) ++ [spare])

/-- The answers to a READ of `n` bytes from register `reg` on. -/
def readAnswers (spare : Answer) (kind : StartKind) (regs : Memory) (reg : Byte) (n : Nat) : List Answer :=
  startAnswer spare kind :: ackAnswer spare :: ackAnswer spare :: startAnswer spare .repeated :: ackAnswer spare ::
    ((List.range n).map (regAnswer spare regs reg) ++ [spare])

/-- The slave takes a WRITE, and holds its bytes from the register address on. -/
theorem Slave.answerEvents_write (spare : Answer) (kind : StartKind) (hs : HwStatus) (reg : Byte) (f : Nat → Byte)
    {sl : Slave} (hwf : sl.regs.wf = true) (n : Nat) (hn : n ≤ 256) :
    ∃ sl' : Slave, answerEvents spare ([.start kind hs, .tx (addrByte sl.address false) .txAck, .tx reg .txAck] ++
        ((List.range n).map fun j => .tx (f j) .txAck) ++ [.stop]) sl = (writeAnswers spare kind n, sl') ∧
      sl'.address = sl.address ∧ ∀ j, j < n → sl'.regs.read (reg + BitVec.ofNat 8 j).toNat = f j := by
  obtain ⟨regs, heq, -, hread⟩ := answerEvents_stored spare f (sl := { sl with ptr := reg, mode := .wData })
    rfl hwf n hn
  refine ⟨{ sl with regs := regs, ptr := reg + BitVec.ofNat 8 n, mode := .idle }, ?_, rfl, hread⟩
  rw [answerEvents_append, answerEvents_append]
  simp only [answerEvents, answerEvent_start]
  rw [answerEvent_addrByte _ { sl with mode := .addr } rfl, if_neg Bool.false_ne_true, answerEvent_regByte _ _ rfl, heq]
  rfl

/-- The slave takes a READ, and sends its registers from the register address on. -/
theorem Slave.answerEvents_read (spare : Answer) (kind : StartKind) (hs hs' : HwStatus) (reg : Byte) (g : Nat → Byte)
    (sl : Slave) {n : Nat} (hn : 0 < n) :
    ∃ sl' : Slave, answerEvents spare ([.start kind hs, .tx (addrByte sl.address false) .txAck, .tx reg .txAck,
        .start .repeated hs', .tx (addrByte sl.address true) .txAck] ++
        ((List.range n).map fun j => .rx (g j) (decide (j + 1 < n))) ++ [.stop]) sl =
      (readAnswers spare kind sl.regs reg n, sl') := by
  refine ⟨{ sl with ptr := reg + BitVec.ofNat 8 n, mode := .idle }, ?_⟩
  rw [answerEvents_append, answerEvents_append]
  simp only [answerEvents, answerEvent_start]
  rw [answerEvent_addrByte _ { sl with mode := .addr } rfl, if_neg Bool.false_ne_true, answerEvent_regByte _ _ rfl]
  rw [answerEvent_addrByte _ { sl with ptr := reg, mode := .addr } rfl, if_pos rfl,
    answerEvents_sent _ _ (by rfl) hn n le_rfl]
  rfl

/-! ### The round trip -/

theorem IsComposite.exec_quiet {i : Instr} {sla : SlaveAddr} {len reg : Byte} (hi : IsComposite i sla len reg)
    {s : State} (hs : s.ready = true) (hw : s.world = []) : exec i s = .next (s.accept i) := by
  obtain ⟨hb, he, -⟩ := (State.ready_iff s).mp hs
  rw [exec_of_accepted hb he hi.ne_init, hw, runController_nil]

/-- A WRITE to the slave: it returns 0, with the bytes of the buffer in the slave's registers. -/
theorem duoRun_write {s : State} {sl : Slave} (spare : Answer) {len : Byte} (reg : Byte) (hs : s.ready = true)
    (hcfg : s.cfg.legal = true) (hwf : sl.regs.wf = true) (hlen : len ≠ 0) {n : Nat} (hn : 2 * len.toNat + 9 ≤ n) :
    ∃ (sl' : Slave) (t : State), duoRun spare n (sl, s.accept (.write sl.address len reg)) = (sl', t) ∧
      t.ready = true ∧ t.rc = 0 ∧ t.buf = s.buf ∧ t.cfg = s.cfg ∧ t.world = s.world ∧ sl'.address = sl.address ∧
      ∀ j, j < len.toNat → sl'.regs.read (reg + BitVec.ofNat 8 j).toNat = s.buf.read j := by
  obtain ⟨-, he, hl⟩ := (State.ready_iff s).mp hs
  have hmax := Config.maxRestarts_pos hcfg
  have hlt := len.isLt
  obtain ⟨hst, b, hproc⟩ := writeProc_completed (s := s.accept (.write sl.address len reg))
    (data := List.replicate len.toNat (ackAnswer spare)) (st := spare) (startOk_startAnswer spare (startKind s))
    (w1 := ackAnswer spare) rfl (w2 := ackAnswer spare) rfl (fun a ha => by rw [List.eq_of_mem_replicate ha]; rfl) hlen
    (by simp [State.accept_write]) hmax
  obtain ⟨sl', hans, haddr, hread⟩ := Slave.answerEvents_write spare (startKind s)
    (startAnswer spare (startKind s)).status reg s.buf.read hwf len.toNat (by omega)
  have hret := follows_writeProc (writeAnswers spare (startKind s) len.toNat)
    (u := s.accept (.write sl.address len reg)) ⟨rfl, hl, rfl, by simp [State.loaded, State.accept_write],
      byte_pos_of_ne_zero hlen⟩ hmax
  rw [writeAnswers, hproc] at hret
  obtain ⟨r, hduo⟩ := duoRun_of_returns (n := n) (u := s.accept (.write sl.address len reg)) rfl hl rfl hlen hret
    (by simp only [List.append_assoc]; rfl) hans (by simp; omega)
  refine ⟨sl', _, hduo, (State.ready_iff _).mpr ⟨rfl, he, rfl⟩, ResultCode.code_of_legal hcfg .ok, rfl, rfl, rfl,
    haddr, hread⟩

/-- A READ from the slave: it returns 0, with the slave's registers in the buffer. -/
theorem duoRun_read {s : State} (sl : Slave) (spare : Answer) {len : Byte} (reg : Byte) (hs : s.ready = true)
    (hcfg : s.cfg.legal = true) (hbuf : s.buf.wf = true) (hlen : len ≠ 0) {n : Nat} (hn : 2 * len.toNat + 13 ≤ n) :
    ∃ (sl' : Slave) (t : State), duoRun spare n (sl, s.accept (.read sl.address len reg)) = (sl', t) ∧
      t.busy = false ∧ t.rc = 0 ∧
      ∀ j, j < len.toNat → t.buf.read j = sl.regs.read (reg + BitVec.ofNat 8 j).toNat := by
  obtain ⟨-, -, hl⟩ := (State.ready_iff s).mp hs
  have hmax := Config.maxRestarts_pos hcfg
  have hlt := len.isLt
  obtain ⟨hst, b, x, a, hproc⟩ := readProc_completed (s := s.accept (.read sl.address len reg))
    (bytes := (List.range len.toNat).map (regAnswer spare sl.regs reg)) (st := spare)
    (startOk_startAnswer spare (startKind s)) (w1 := ackAnswer spare) rfl (w2 := ackAnswer spare) rfl
    (startOk_startAnswer spare .repeated) (r1 := ackAnswer spare) rfl hlen (by simp [State.accept_read]) hmax
  have hevents : ((List.range len.toNat).map (regAnswer spare sl.regs reg)).mapIdx
        (fun j a => Event.rx a.byte (decide (j + 1 < len.toNat))) =
      (List.range len.toNat).map fun j => .rx (regAnswer spare sl.regs reg j).byte (decide (j + 1 < len.toNat)) :=
    List.ext_getElem (by simp) (by simp)
  obtain ⟨sl', hans⟩ := Slave.answerEvents_read spare (startKind s) (startAnswer spare (startKind s)).status
    (startAnswer spare .repeated).status reg (fun j => (regAnswer spare sl.regs reg j).byte) sl
    (byte_pos_of_ne_zero hlen)
  have hret := follows_readProc (readAnswers spare (startKind s) sl.regs reg len.toNat)
    (u := s.accept (.read sl.address len reg)) ⟨rfl, hl, rfl, by simp [State.loaded, State.accept_read],
      byte_pos_of_ne_zero hlen⟩ hmax
  rw [readAnswers, hproc] at hret
  rw [← hevents] at hans
  obtain ⟨r, hduo⟩ := duoRun_of_returns (n := n) (u := s.accept (.read sl.address len reg)) rfl hl rfl hlen hret
    (by simp only [List.append_assoc]; rfl) hans (by simp; omega)
  refine ⟨sl', _, hduo, rfl, ResultCode.code_of_legal hcfg .ok, fun j hj => ?_⟩
  refine (Memory.read_fill _ 0 j hbuf).trans ?_
  rw [dif_pos ⟨Nat.zero_le j, by omega, by simpa using hj⟩]
  simp [regAnswer]

/-- Settles O46: the READ brings back the registers that the WRITE has filled. -/
theorem writeThenReadRoundTrip : Obligations.WriteThenReadRoundTrip := by
  intro s s1 sl spare len reg hs hcfg hbuf hregs hlen hw hexec n hn
  obtain rfl : s.accept (.write sl.address len reg) = s1 := by
    simpa using (IsComposite.exec_quiet (.inl rfl) hs hw).symm.trans hexec
  obtain ⟨sl', t, hwrite, ht, hrc, htbuf, htcfg, htw, haddr, hstored⟩ :=
    duoRun_write spare reg hs hcfg hregs hlen (n := n) (by omega)
  rw [hwrite, ← haddr]
  obtain ⟨sl'', t', hread, hbusy', hrc', hbuf'⟩ := duoRun_read sl' spare reg ht (by rw [htcfg]; exact hcfg)
    (by rw [htbuf]; exact hbuf) hlen hn
  refine ⟨((State.ready_iff t).mp ht).1, hrc, _, IsComposite.exec_quiet (.inr rfl) ht (htw.trans hw), ?_⟩
  rw [hread]
  exact ⟨hbusy', hrc', fun j hj => (hbuf' j hj).trans (hstored j hj)⟩

end Sys2Proof.Machine
end

section
/-! PROOFS. INIT: its word, what `exec` does with it and when it is refused; and that no other command and no step of the
controller reads the divisor it stores (43_configuration.md). -/

namespace Sys2Proof

/-- INIT's word is its opcode below the divisor (R61, R160). -/
theorem encode_init (d : Divisor) : encode (.init d) = 0x00000001 ||| (d.setWidth 32 <<< 12) := by
  apply BitVec.eq_of_getLsbD_eq
  intro i hi
  simp only [encode, encodeC, Instr.opcode, BitVec.getLsbD_append, BitVec.getLsbD_or, BitVec.getLsbD_shiftLeft,
    BitVec.getLsbD_setWidth]
  interval_cases i <;> simp

namespace Machine

/-! ### When a command is refused, and what INIT does (R160, R161) -/

/-- In an idle block that is not initialised only INIT is taken (R161). -/
theorem exec_of_not_en {s : State} {i : Instr} (hb : s.busy = false) (he : s.en = false) (hi : ∀ d, i ≠ .init d) :
    exec i s = .refused .notInitialised := by
  rw [exec_eq_acceptCommand s i hi]
  simp [acceptCommand, hb, he]

/-- INIT carries no field of the descriptor, so each but the opcode and its low bit, the direction, is 0 (R19, R69). -/
theorem descriptorOf_init (d : Divisor) :
    descriptorOf (.init d) = { op := 1, dir := true, sla := 0, reg := 0, len := 0, byte := 0 } := by
  simp [descriptorOf, Instr.opcode]

/-- The state that an accepted INIT answers (R160). -/
theorem exec_init_of_not_en {s : State} (d : Divisor) (hb : s.busy = false) (he : s.en = false) :
    exec (.init d) s = .next { s with
      div := d, en := true, dOp := 1, dDir := true, dSla := 0, dReg := 0, dLen := 0, dByte := 0 } := by
  rw [exec, execInit, if_neg (by simp [hb]), if_neg (by simp [he]), descriptorOf_init]
  rfl

theorem exec_init_of_en {s : State} (d : Divisor) (hb : s.busy = false) (he : s.en = true) :
    exec (.init d) s = .refused .alreadyInitialised := by
  simp [exec, execInit, hb, he]

theorem exec_init_of_busy {s : State} (d : Divisor) (hb : s.busy = true) : exec (.init d) s = .fault .reentry := by
  simp [exec, execInit, hb]

/-- No command returns `EN` to 0: INIT sets it, and the controller does not write it (R161). -/
theorem exec_next_en {s t : State} {i : Instr} (h : exec i s = .next t) : t.en = true := by
  obtain ⟨-, ⟨d, -, -, rfl⟩ | ⟨-, hen, rfl⟩⟩ := exec_eq_next h
  · rfl
  · simpa using hen

/-- Settles O10, by the cases of the busy test and of `EN`. -/
theorem initCompletes : Obligations.InitCompletes := fun _ d =>
  ⟨encode_init d, exec_init_of_not_en d, exec_init_of_en d, exec_init_of_busy d⟩

/-- Settles O9: acceptance tests `EN`, an accepted command leaves it 1, and reset clears it. -/
theorem initIsDueExactlyOnce : Obligations.InitIsDueExactlyOnce := by
  refine ⟨fun s i hb => ⟨exec_of_not_en hb, ?_⟩, fun _ _ _ _ h => exec_next_en h,
    fun _ _ _ hw => ⟨_, step_reset hw, State.strikeReset_en _ _⟩, rfl⟩
  rintro he ⟨d, rfl⟩
  exact exec_init_of_en d hb he

/-! ### `DIV` is read by no rule (R162) -/

/-- `s` with another divisor. -/
def State.setDiv (d : Divisor) (s : State) : State := { s with div := d }

section
variable (d : Divisor) (s : State)

theorem State.setDiv_of_div {t : State} (h : t.div = d) : t.setDiv d = t := by
  rw [← h]
  rfl

/-- `CFG` is the divisor, extended with zeros (R25). -/
theorem cfgImage_eq_setWidth : cfgImage s = s.div.setWidth 32 :=
  (BitVec.setWidth_eq_append (by decide)).symm

theorem phaseTurn_setDiv : phaseTurn (s.setDiv d) = (phaseTurn s).setDiv d := by
  unfold phaseTurn
  rw [show (s.setDiv d).ph = s.ph from rfl]
  cases s.ph with
  | enter | prim =>
    simp only [enterTurn, primitiveTurn, apply_ite (State.setDiv d)]
    rfl
  | idle | start1 | addrW | regAddr | start2 | addrR | dataTx | dataRx | stopping => rfl

theorem controllerTurn_setDiv : controllerTurn (s.setDiv d) = (controllerTurn s).setDiv d := by
  simp only [controllerTurn, phaseTurn_setDiv, apply_ite (State.setDiv d)]
  rfl

/-- Both sides branch on the same elements, so the rows agree branch by branch. -/
theorem afterOperation_setDiv : afterOperation (s.setDiv d) = (afterOperation s).setDiv d := by
  unfold afterOperation
  rw [show (s.setDiv d).ph = s.ph from rfl]
  cases s.ph with
  | idle | enter | stopping | prim => rfl
  | start1 | addrW =>
    simp only [afterStart1, afterAddrW, retryOrGiveUp_eq, apply_ite (State.setDiv d)]
    rfl
  | regAddr | start2 | addrR | dataTx | dataRx =>
    simp only [afterRegAddr, afterStart2, afterAddrR, afterDataTx, afterDataRx, apply_ite (State.setDiv d)]
    rfl

/-- A command, a turn and a completion do the same whatever `DIV` holds, but for `DIV`. -/
theorem forgets_setDiv : Forgets (State.setDiv d) where
  idem _ := rfl
  busy _ := rfl
  en _ := rfl
  world _ := rfl
  take _ _ := rfl
  configure _ _ := rfl
  accept _ _ := rfl
  turn := .of_commute (fun _ => rfl) (controllerTurn_setDiv d)
  bus ans := .busCompletes (f := State.setDiv d) (fun _ => rfl) (fun _ => rfl) ans
    (.of_commute (fun _ => rfl) (afterOperation_setDiv d)) (fun _ => rfl) (fun _ => rfl) (fun _ _ => rfl)
    (fun _ _ => rfl)

end

/-- A command other than INIT keeps `DIV`. -/
theorem exec_next_div {s t : State} {i : Instr} (hi : ∀ d, i ≠ .init d) (h : exec i s = .next t) : t.div = s.div := by
  obtain ⟨-, ⟨d, rfl, -, -⟩ | ⟨-, -, rfl⟩⟩ := exec_eq_next h
  · exact absurd rfl (hi d)
  · simp

/-- A turn and a completion keep `DIV`. -/
theorem step_controller_next_div {s t : State}
    (hw : (∃ rest, s.world = .tick :: rest) ∨ ∃ ans rest, s.world = .bus ans :: rest) (h : step s = .next t) :
    t.div = s.div := by
  rcases hw with ⟨rest, hw⟩ | ⟨ans, rest, hw⟩
  · rw [step_tick hw] at h
    cases h
    simp
  · rw [step_bus hw] at h
    cases h
    simp

/-- What does not read `DIV`, and keeps it where it is `d`, commutes with setting it to `d`. -/
theorem eq_mapNext_setDiv {d : Divisor} {s : State} {g : State → Host.Outcome State Fault Refusal}
    (hread : mapNext (State.setDiv d) (g (s.setDiv d)) = mapNext (State.setDiv d) (g s))
    (hkeep : ∀ t, g (s.setDiv d) = .next t → t.div = d) : g (s.setDiv d) = mapNext (State.setDiv d) (g s) := by
  rw [← hread]
  cases hg : g (s.setDiv d) with
  | next t => exact congrArg Host.Outcome.next (State.setDiv_of_div d (hkeep t hg)).symm
  | fault r => rfl
  | refused r => rfl

/-- Settles O56: a command and a step of the controller neither read `DIV` nor write it. -/
theorem divIsReadByNoRule : Obligations.DivIsReadByNoRule := fun s d =>
  ⟨cfgImage_eq_setWidth (s.setDiv d),
    fun i hi => eq_mapNext_setDiv (g := exec i) ((forgets_setDiv d).exec i s) fun _ h => exec_next_div hi h,
    fun hw => eq_mapNext_setDiv (g := step) ((forgets_setDiv d).step_controller hw)
      fun _ h => step_controller_next_div (s := s.setDiv d) hw h⟩

end Machine

end Sys2Proof
end

section
/-! PROOFS. Exceptions: when a step faults, and which codes a composite can return. -/

namespace Sys2Proof.Machine

/-! ### The faults of the host's accesses -/

theorem writeCommand_eq_fault_iff {w : Word} {s : State} {f : Fault} :
    writeCommand w s = .fault f ↔ s.busy = true ∧ f = .reentry := by
  cases hb : s.busy with
  | true => simp [writeCommand, hb, eq_comm]
  | false =>
    cases hdec : decode w with
    | ok i => simp [writeCommand_of_decode hb hdec, exec_ne_fault i s hb f]
    | error e => simp [writeCommand_of_reject hb hdec]

/-- The tests of an access, in their order (R41, R42, R45): where its register part `r` does not fault, it faults behind
the last of them alone. -/
theorem windowAccess_eq_fault_iff {width : Width} {off : Offset} {b : Bool} {f : Fault} {u : State}
    {r : Host.Outcome State Fault Refusal} (hr : r ≠ .fault f) :
    (if off.toNat < 0x10 then r
      else if off.toNat < 0x100 then .refused .noSuchRegister
      else if width ≠ .byte then .refused .badAccess
      else if b = true then .fault .bufferRace
      else .next u) = .fault f ↔ b = true ∧ f = .bufferRace ∧ 0x100 ≤ off.toNat ∧ width = .byte := by
  split_ifs with hreg hhole hwidth hb
  · simp only [hr, false_iff]
    omega
  · simp [hhole]
  · simp [hwidth]
  · have hoff : 0x100 ≤ off.toNat := by omega
    simp [hb, hoff, not_not.mp hwidth, eq_comm]
  · simp [hb]

section
variable {s : State} {f : Fault} {rest : List Stimulus} {width : Width} {off : Offset} {v : Word}

theorem step_cmd_eq_fault_iff (hw : s.world = .host (.write .word 0x000 v) :: rest) :
    step s = .fault f ↔ s.busy = true ∧ f = .reentry := by
  rw [step_cmd hw, writeCommand_eq_fault_iff]

theorem step_read_eq_fault_iff (hw : s.world = .host (.read width off) :: rest) :
    step s = .fault f ↔ s.busy = true ∧ f = .bufferRace ∧ 0x100 ≤ off.toNat ∧ width = .byte := by
  rw [hostReadFollowsTheWindow s width off rest hw]
  exact windowAccess_eq_fault_iff (by split_ifs <;> simp)

theorem step_write_eq_fault_iff (hw : s.world = .host (.write width off v) :: rest)
    (hcmd : ¬ (width = .word ∧ off = 0x000)) :
    step s = .fault f ↔ s.busy = true ∧ f = .bufferRace ∧ 0x100 ≤ off.toNat ∧ width = .byte := by
  rw [hostWriteFollowsTheWindow s width off v rest hw hcmd]
  exact windowAccess_eq_fault_iff (by split_ifs <;> simp)

end

/-- Settles O18, by the next stimulus: of them only a host access can fault. -/
theorem faultsAreExactlyTheBreachesWhileBusy : Obligations.FaultsAreExactlyTheBreachesWhileBusy := by
  intro s f
  match hw : s.world with
  | [] => simp [step_nil hw]
  | .tick :: _ => simp [step_tick hw]
  | .bus _ :: _ => simp [step_bus hw]
  | .reset _ :: _ => simp [step_reset hw]
  | .host (.read width off) :: _ =>
    rw [step_read_eq_fault_iff hw]
    simp
  | .host (.write width off v) :: _ =>
    by_cases hcmd : width = .word ∧ off = 0x000
    · obtain ⟨rfl, rfl⟩ := hcmd
      rw [step_cmd_eq_fault_iff hw]
      simp
    · rw [step_write_eq_fault_iff hw hcmd]
      have hoff : width = .word → off ≠ 0#9 := fun hword hoff => hcmd ⟨hword, hoff⟩
      simp +contextual [hoff]

/-! ### The codes of a composite -/

/-- `v` is the number of a result that the command latched in `u` can come to: rejected data is a WRITE's, a failure
behind the Repeated Start a READ's (R170). -/
def CodeAllowed (u : State) (v : BitVec 4) : Prop :=
  ∃ c : ResultCode, v = c.code u.cfg ∧ (c = .dataRejected → u.dDir = false) ∧ (c = .readAddr → u.dDir = true)

/-- The code pending in `STOPPING`, and the code returned, are allowed. -/
def CodeFits (u : State) : Prop :=
  (u.ph = .stopping → CodeAllowed u u.rcp) ∧ (u.ph = .idle → CodeAllowed u u.rc)

theorem codeFits_of_undecided {u : State} (hst : u.ph ≠ .stopping) (hi : u.ph ≠ .idle) : CodeFits u :=
  ⟨fun h => absurd h hst, fun h => absurd h hi⟩

section
variable {q : State} {c : ResultCode}

theorem codeFits_decideResult (hw : c = .dataRejected → q.dDir = false) (hr : c = .readAddr → q.dDir = true) :
    CodeFits (q.decideResult c) :=
  ⟨fun _ => ⟨c, rfl, hw, hr⟩, fun h => absurd h (by simp)⟩

theorem codeFits_retryOrGiveUp (hw : c ≠ .dataRejected) (hr : c ≠ .readAddr) : CodeFits (retryOrGiveUp c q) := by
  unfold retryOrGiveUp
  split_ifs
  · exact codeFits_decideResult (fun h => absurd h hw) (fun h => absurd h hr)
  · exact codeFits_of_undecided (by simp) (by simp)

theorem codeFits_returnCode {v : BitVec 4} (h : CodeAllowed q v) : CodeFits (q.returnCode v) :=
  ⟨fun hp => absurd hp (by simp), fun _ => h⟩

/-- The direction latched is the one of the phases that only one of the two commands enters (R14). -/
structure PhaseFitsDirection (q : State) : Prop where
  read : q.ph = .start2 ∨ q.ph = .addrR → q.dDir = true
  write : q.ph = .dataTx → q.dDir = false

/-- Each row decides only a code that its phase allows. -/
theorem codeFits_afterOperation (hdir : PhaseFitsDirection q) (hp : q.ph ≠ .prim) (h : CodeFits q) :
    CodeFits (afterOperation q) := by
  unfold afterOperation
  cases hph : q.ph with
  | prim => exact absurd hph hp
  | idle | enter => exact h
  | stopping => exact codeFits_returnCode (h.1 hph)
  | start1 =>
    unfold afterStart1
    split_ifs
    · exact codeFits_of_undecided (by simp) (by simp)
    · exact codeFits_retryOrGiveUp (by simp) (by simp)
  | addrW =>
    unfold afterAddrW
    split_ifs
    · exact codeFits_of_undecided (by simp) (by simp)
    · exact codeFits_retryOrGiveUp (by simp) (by simp)
    · exact codeFits_decideResult (by simp) (by simp)
  | regAddr =>
    unfold afterRegAddr
    split_ifs
    · exact codeFits_of_undecided (by simp) (by simp)
    · exact codeFits_of_undecided (by simp) (by simp)
    · exact codeFits_decideResult (by simp) (by simp)
    · exact codeFits_decideResult (by simp) (by simp)
  | start2 =>
    unfold afterStart2
    split_ifs
    · exact codeFits_of_undecided (by simp) (by simp)
    · exact codeFits_decideResult (by simp) fun _ => hdir.read (.inl hph)
  | addrR =>
    unfold afterAddrR
    split_ifs
    · exact codeFits_of_undecided (by simp) (by simp)
    · exact codeFits_decideResult (by simp) fun _ => hdir.read (.inr hph)
  | dataTx =>
    unfold afterDataTx
    split_ifs
    · exact codeFits_of_undecided (by simp [hph]) (by simp [hph])
    · exact codeFits_decideResult (by simp) (by simp)
    · exact codeFits_decideResult (fun _ => hdir.write hph) (by simp)
    · exact codeFits_decideResult (by simp) (by simp)
  | dataRx =>
    unfold afterDataRx storeData
    split_ifs
    · exact codeFits_of_undecided (by simp [hph]) (by simp [hph])
    · exact codeFits_decideResult (by simp) (by simp)

/-- The procedures write neither the phase nor the direction nor a code. -/
theorem codeFits_busCompletes (hdir : PhaseFitsDirection q) (hp : q.ph ≠ .prim) (h : CodeFits q) (ans : Answer) :
    CodeFits (busCompletes ans q) := by
  unfold busCompletes
  cases q.leOp with
  | none => exact h
  | start => exact codeFits_afterOperation (q := startDone ans q) ⟨hdir.read, hdir.write⟩ hp h
  | stop => exact codeFits_afterOperation (q := stopDone ans q) ⟨hdir.read, hdir.write⟩ hp h
  | tx b => exact codeFits_afterOperation (q := putDone b ans q) ⟨hdir.read, hdir.write⟩ hp h
  | rx a => exact codeFits_afterOperation (q := getDone a ans q) ⟨hdir.read, hdir.write⟩ hp h

/-- Of the turns only `ENTER` at length 0 returns, with success (R124). -/
theorem codeFits_controllerTurn (h : CodeFits q) : CodeFits (controllerTurn q) := by
  rcases controllerTurn_cases q with ⟨-, -, heq⟩ | ⟨-, -, heq⟩ | ⟨-, op, d, b, a, heq⟩
  · rw [heq]
    exact codeFits_returnCode ⟨.ok, rfl, by simp, by simp⟩
  · rw [heq]
    exact codeFits_of_undecided (by simp) (by simp)
  · rw [heq]
    exact h

end

theorem CompositeStage.phaseFitsDirection {s u : State} {es : List Event} (h : CompositeStage s es u) :
    PhaseFitsDirection u := by
  have hf := h.facts
  constructor
  · rintro (hp | hp) <;> simp only [CompositeFacts, hp] at hf <;> exact hf.1
  · intro hp
    simp only [CompositeFacts, hp] at hf
    exact hf.1

/-- The acceptance by itself is the run of no step. -/
theorem reaches_accept {i : Instr} {s : State} (hs : s.ready = true) (hi : ∀ d, i ≠ .init d) :
    Reaches i s (s.accept i) := by
  obtain ⟨hb, he, -⟩ := (State.ready_iff s).mp hs
  exact .inr ⟨0, _, exec_of_accepted (s := { s with world := [] }) hb he hi, rfl⟩

/-- Whatever a composite reaches, the code it has decided is one of its own. -/
theorem IsComposite.codeFits_of_reaches {i : Instr} {sla : SlaveAddr} {len reg : Byte} (hi : IsComposite i sla len reg)
    {s t : State} (hs : s.ready = true) (hcfg : s.cfg.legal = true) (h : Reaches i s t) : CodeFits t := by
  suffices hstage : (∃ es, CompositeStage s es t) ∧ CodeFits t from hstage.2
  refine h.keeps (P := fun u => (∃ es, CompositeStage s es u) ∧ CodeFits u) hs hi.ne_init ?_ ?_ ?_ ?_
  · obtain ⟨es, hstage, -⟩ := hi.stage_of_reaches hs hcfg (reaches_accept hs hi.ne_init)
    have hp := hi.accept_ph s
    exact ⟨⟨es, hstage⟩, codeFits_of_undecided (by simp [hp]) (by simp [hp])⟩
  · rintro u w vs ⟨⟨es, hu⟩, hc⟩
    exact ⟨⟨es, hu.read w vs⟩, hc⟩
  · rintro u hb ⟨⟨es, hu⟩, hc⟩
    exact ⟨⟨es, hu.turn hcfg⟩, codeFits_controllerTurn hc⟩
  · rintro u ans hb ⟨⟨es, hu⟩, hc⟩
    exact ⟨hu.bus hcfg hb ans, codeFits_busCompletes hu.phaseFitsDirection hu.control.ph hc ans⟩

/-- The code a composite has returned is one that its direction allows. -/
theorem IsComposite.code_of_returned {i : Instr} {sla : SlaveAddr} {len reg : Byte} (hi : IsComposite i sla len reg)
    {s t : State} (hs : s.ready = true) (hcfg : s.cfg.legal = true) (h : Reaches i s t) (hend : t.busy = false) :
    ∃ c : ResultCode, t.rc = c.code s.cfg ∧ (c = .dataRejected → (descriptorOf i).dir = false) ∧
      (c = .readAddr → (descriptorOf i).dir = true) := by
  obtain ⟨es, hstage, hd, -⟩ := hi.stage_of_reaches hs hcfg h
  have hp : t.ph = .idle := by simpa [hend] using hstage.control.busy
  simpa only [CodeAllowed, hd, hstage.cfg] using (hi.codeFits_of_reaches hs hcfg h).2 hp

/-- Settles O43, by the direction latched: a WRITE never fails as `readAddr`, a READ never as `dataRejected`. -/
theorem resultCodesByCommand : Obligations.ResultCodesByCommand := by
  intro s t sla len reg hs hcfg hend
  constructor
  · intro h
    obtain ⟨c, hrc, -, hread⟩ := IsComposite.code_of_returned (.inl rfl) hs hcfg h hend
    rw [hrc, ResultCode.code_of_legal hcfg]
    cases c with
    | readAddr => exact absurd (hread rfl) (by simp [descriptorOf, Instr.opcode])
    | ok | startFailed | addrFailed | regAddrRejected | dataRejected | hwFault => simp
  · intro h
    obtain ⟨c, hrc, hwrite, -⟩ := IsComposite.code_of_returned (.inr rfl) hs hcfg h hend
    rw [hrc, ResultCode.code_of_legal hcfg]
    cases c with
    | dataRejected => exact absurd (hwrite rfl) (by simp [descriptorOf, Instr.opcode])
    | ok | startFailed | addrFailed | regAddrRejected | readAddr | hwFault => simp

end Sys2Proof.Machine
end

section
/-! PROOFS. Reset and hazards: a command while another runs, a host that keeps its duty, and what reset leaves. -/

namespace Sys2Proof.Machine

/-! ### A command while another runs (R195) -/

/-- Every command tests `BUSY` before anything else (R69). -/
theorem exec_of_busy {s : State} (i : Instr) (hb : s.busy = true) : exec i s = .fault .reentry := by
  by_cases hi : ∃ d, i = .init d
  · obtain ⟨d, rfl⟩ := hi
    exact exec_init_of_busy d hb
  · rw [exec_eq_acceptCommand s i (not_exists.mp hi), acceptCommand, if_pos hb]

/-- Settles O8: the write faults before its word is decoded, and so does every command. -/
theorem commandWhileBusyIsReentry : Obligations.CommandWhileBusyIsReentry := fun _ hb =>
  ⟨fun _ _ hw => (step_cmd_eq_fault_iff hw).mpr ⟨hb, rfl⟩, fun i => exec_of_busy i hb⟩

/-! ### A host that keeps its duty (R194 to R196) -/

/-- The duty excludes each of the breaches that O18 lists as the faults of a step. -/
theorem step_ne_fault_of_disciplined {s : State} (h : disciplined s = true) (f : Fault) : step s ≠ .fault f := by
  intro hf
  obtain ⟨hb, a, rest, hw, hbreach⟩ := (faultsAreExactlyTheBreachesWhileBusy s f).mp hf
  have hguarded : a.guarded = true := by
    rcases hbreach with ⟨-, w, rfl⟩ | ⟨-, off, hoff, rfl | ⟨v, rfl⟩⟩
    · rfl
    · exact decide_eq_true hoff
    · exact decide_eq_true hoff
  simp [disciplined, hw, hb, hguarded] at h

/-- Settles O19, by induction on the number of steps: the first does not fault, and the duty is kept in the rest. -/
theorem disciplinedHostNeverFaults : Obligations.DisciplinedHostNeverFaults := by
  intro n
  induction n with
  | zero => intro s _ f h; cases h
  | succ n ih =>
    intro s hduty f
    cases hs : step s with
    | next u =>
      rw [runSteps_of_next hs]
      exact ih u (fun k t hk ht => hduty (k + 1) t (by omega) ((runSteps_of_next hs).trans ht)) f
    | fault g => exact absurd hs (step_ne_fault_of_disciplined (hduty 0 s n.succ_pos rfl) g)
    | refused r => simp [runSteps_of_refused hs]

/-! ### What reset leaves (R190 to R192) -/

/-- Settles O50: the reset step is `State.strikeReset`, and its buffer reads as the bytes drawn. -/
theorem resetLeavesTheDecidedValues : Obligations.ResetLeavesTheDecidedValues := by
  refine ⟨fun s draw rest hw => ⟨Memory.fill 0 draw.bufBytes [], step_reset hw, fun j hj hlt => ?_⟩,
    rfl, rfl, rfl, rfl, rfl, rfl⟩
  rw [Memory.read_fill draw.bufBytes 0 j Memory.wf_nil, dif_pos ⟨j.zero_le, hlt, hj⟩]
  rfl

end Sys2Proof.Machine
end

section
/-! PROOFS. The words written out in the spec: a command's word decodes to it, and a word of no row is rejected by name. -/

namespace Sys2Proof

/-- A word is rejected when it matches no row of the map, and with the name that its bits give (R62, R64). -/
theorem decode_eq_error_iff {w : Word} {e : DecodeReject} :
    decode w = .error e ↔ (∀ r ∈ opcodeMap, r.matchesWord w = false) ∧ rejectReason w = e := by
  constructor
  · intro h
    unfold decode at h
    split_ifs at h
    cases h
    simp_all [opcodeMap]
  · rintro ⟨hrows, rfl⟩
    simp only [opcodeMap, List.forall_mem_cons] at hrows
    obtain ⟨hinit, hstart, hstop, hput, hgetn, hgeta, hwrite, hread, -⟩ := hrows
    rw [decode, hinit, hstart, hstop, hput, hgetn, hgeta, hwrite, hread]
    rfl

/-- A word that is a command's own decodes to that command. -/
theorem decode_of_encode_eq {i : Instr} {w : Word} (h : encode i = w) : decode w = .ok i := by
  rw [← h]
  exact decodeOfEncodeIsTheInstruction i

/-- Settles O5: the first eight words are the words of their commands, and the last two match no row. -/
theorem specEncodingVectorsDecode : Obligations.SpecEncodingVectorsDecode := by
  refine ⟨decode_of_encode_eq ?init, decode_of_encode_eq ?start, decode_of_encode_eq ?stop, decode_of_encode_eq ?put,
    decode_of_encode_eq ?getn, decode_of_encode_eq ?geta, decode_of_encode_eq ?write, decode_of_encode_eq ?read,
    decode_eq_error_iff.mpr ?opcodeZero, decode_eq_error_iff.mpr ?bitEleven⟩
  case init | start | stop | put | getn | geta | write | read => rfl
  case opcodeZero | bitEleven => decide

end Sys2Proof
end
